-- ==== Sys2Proof/Word.lean ====
section
/-! DEFINITION. The widths of spec/00_scope.md rule R8: bytes and 32-bit CSR words. -/

namespace Sys2Proof

/-- An unsigned 8-bit value (00 R8). -/
abbrev Byte := BitVec 8

/-- A 32-bit CSR word or counter (10 R30, 20 R44). -/
abbrev Word := BitVec 32

end Sys2Proof
end

