-- ==== Sys2Proof/Config.lean ====
section
/-! DEFINITION. The implementation parameters of spec/00_scope.md rule R6 and the values the spec leaves open.
What is OPEN there is an opaque constant without a body; the state carries the parameters it uses (`State.par`),
so that a claim about every state is a claim about every value of them (log 3). -/

namespace Sys2Proof

/-- The parameters of 00 R6 that the block's behaviour depends on. `N_PORTS` is the number of slots the state
holds (log 4); `BUF_CAP` is derived (41 R106); `CSR_BASE` is an argument of the host's access (log 5). -/
structure Params where
  /-- `SYNC0`, the first byte of every frame. -/
  sync0 : Byte
  /-- `SYNC1`, the second byte of every frame. -/
  sync1 : Byte
  /-- `TRAILER0`, the first byte after the checksum. -/
  trailer0 : Byte
  /-- `TRAILER1`, the second byte after the checksum. -/
  trailer1 : Byte
  /-- `MAX_LEN`, 0..65535: a declared length above it overflows (92 D3). -/
  maxLen : BitVec 16
  /-- `TS_W`, the width in bits of a timestamp (92 D5). -/
  tsW : Nat
  deriving DecidableEq, Repr, Inhabited

/-- The parameters of the build: OPEN in 00 R6, so nothing is known of them (DESIGN CHOICE, log 3). -/
opaque Config.params : Params

/-- The draw `BindRefused(attempt, port)` of 00 R6: OPEN, so nothing is known of any answer (log 6). -/
opaque Config.bindRefused : Nat → BitVec 16 → Bool

/-- What reading a byte index at or past the end of a buffer gives: the spec defines `s[i]` for `i < |s|` only
(00 R10). A free value; no run reads one (DESIGN CHOICE, log 12). -/
opaque Config.absentByte : Nat → Byte

/-- The `udp_port` of a `Msg` emitted by a slot that is not bound. A free value; no run emits one
(DESIGN CHOICE, log 13). -/
opaque Config.unboundPort : Nat → BitVec 16

/-- The role code of a `Msg` emitted by a slot that is not bound. A free value, as `Config.unboundPort`
(DESIGN CHOICE, log 13). -/
opaque Config.unboundRole : Nat → BitVec 2

/-- `N_PORTS = 4` on this hardware (00 R6, 92 D4). -/
def Config.nPorts : Nat := 4

/-- The test configuration TC1 of 00 R7: used by the model's own tests only, never by the machine. -/
def Params.tc1 : Params where
  sync0 := 0xAA
  sync1 := 0x55
  trailer0 := 0x0D
  trailer1 := 0x0A
  maxLen := 1024
  tsW := 32

end Sys2Proof
end

