-- ==== Sys2Proof/Syntax.lean ====
section
/-! DEFINITION. The operations of spec/30_encoding.md rule R78: one constructor of `Instr` per row of
spec/opcode_table.json; and the stimuli of rules R68 and R79 that select them. -/

namespace Sys2Proof

/-- The framer states of 10 R22, with the source's names. -/
inductive FState where
  | seeking
  | haveHeader
  | haveFrame
  | yielded
  deriving DecidableEq, Repr

/-- The Port Roles of 10 R26, in the source's order. -/
inductive PortRole where
  | commandResponse
  | telemetry
  | lidar
  | planning
  deriving DecidableEq, Repr

/-- The ten framer operations of 30 R78, as names. -/
inductive FramerOp where
  | waitSync
  | sync
  | drop
  | waitHdr
  | lenOvf
  | waitBody
  | ready
  | emit
  | discard
  | resume
  deriving DecidableEq, Repr

/-- The registers of the CSR map, 30 R70; `reserved` is every other aligned offset of the window. -/
inductive CsrReg where
  | params
  | proto
  | ctrl
  | cmd
  | status
  | unrouted
  | portCfg (i : Nat)
  | rxDgrams (i : Nat)
  | rxBytes (i : Nat)
  | framesOk (i : Nat)
  | resyncDrops (i : Nat)
  | lenOvf (i : Nat)
  | trailerErr (i : Nat)
  | csumErr (i : Nat)
  | discarded (i : Nat)
  | pstate (i : Nat)
  | bufLevel (i : Nat)
  | reserved
  deriving DecidableEq, Repr

/-- One operation of the block, a row of spec/opcode_table.json. A slot operand `i` is a number below `N_PORTS`
and a timestamp `ts` one of `TS_W` bits; `Instr.wellFormed` checks both. -/
inductive Instr where
  /-- F_WAIT_SYNC (41 R91): wait for a second byte, in slot `i`. -/
  | fWaitSync (i ts : Nat)
  /-- F_SYNC (41 R92): the sync pair is at the head. -/
  | fSync (i ts : Nat)
  /-- F_DROP (41 R93): drop one byte to resynchronise. -/
  | fDrop (i ts : Nat)
  /-- F_WAIT_HDR (41 R94): wait for the function code and length. -/
  | fWaitHdr (i ts : Nat)
  /-- F_LEN_OVF (41 R95): the declared length is above `MAX_LEN`. -/
  | fLenOvf (i ts : Nat)
  /-- F_WAIT_BODY (41 R96): wait for the rest of the frame. -/
  | fWaitBody (i ts : Nat)
  /-- F_READY (41 R97): the whole frame is present. -/
  | fReady (i ts : Nat)
  /-- F_EMIT (41 R99): the frame is delivered. -/
  | fEmit (i ts : Nat)
  /-- F_DISCARD (41 R100): a gate rejects the frame. -/
  | fDiscard (i ts : Nat)
  /-- F_RESUME (41 R101): back to scanning after a delivery. -/
  | fResume (i ts : Nat)
  /-- DGRAM_ROUTED (42 R123): a datagram for a bound port. -/
  | dgramRouted (port : BitVec 16) (data : List Byte) (ts : Nat)
  /-- DGRAM_UNROUTED (42 R122): a datagram no framer receives. -/
  | dgramUnrouted (port : BitVec 16) (data : List Byte) (ts : Nat)
  /-- RD_PARAMS (43 R142). -/
  | rdParams
  /-- WR_PARAMS (43 R154). -/
  | wrParams (v : Word)
  /-- RD_PROTO (43 R143). -/
  | rdProto
  /-- WR_PROTO (43 R154). -/
  | wrProto (v : Word)
  /-- RD_CTRL (43 R144). -/
  | rdCtrl
  /-- WR_CTRL (43 R144). -/
  | wrCtrl (v : Word)
  /-- RD_STATUS (43 R146). -/
  | rdStatus
  /-- WR_STATUS (43 R146). -/
  | wrStatus (v : Word)
  /-- RD_UNROUTED (43 R147). -/
  | rdUnrouted
  /-- WR_UNROUTED (43 R154). -/
  | wrUnrouted (v : Word)
  /-- RD_CMD (43 R145). -/
  | rdCmd
  /-- CMD_NONE (43 R145): `hi` is the ignored `v[31:2]`. -/
  | cmdNone (hi : BitVec 30)
  /-- CMD_START (42 R125). -/
  | cmdStart (hi : BitVec 30)
  /-- CMD_STOP (42 R130). -/
  | cmdStop (hi : BitVec 30)
  /-- CMD_ILLEGAL (43 R145). -/
  | cmdIllegal (hi : BitVec 30)
  /-- RD_PORT_CFG (43 R148). -/
  | rdPortCfg (i : Nat)
  /-- WR_PORT_CFG (43 R148). -/
  | wrPortCfg (i : Nat) (v : Word)
  /-- RD_RX_DGRAMS (43 R149). -/
  | rdRxDgrams (i : Nat)
  /-- WR_RX_DGRAMS (43 R154). -/
  | wrRxDgrams (i : Nat) (v : Word)
  /-- RD_RX_BYTES (43 R149). -/
  | rdRxBytes (i : Nat)
  /-- WR_RX_BYTES (43 R154). -/
  | wrRxBytes (i : Nat) (v : Word)
  /-- RD_FRAMES_OK (43 R149). -/
  | rdFramesOk (i : Nat)
  /-- WR_FRAMES_OK (43 R154). -/
  | wrFramesOk (i : Nat) (v : Word)
  /-- RD_RESYNC_DROPS (43 R149). -/
  | rdResyncDrops (i : Nat)
  /-- WR_RESYNC_DROPS (43 R154). -/
  | wrResyncDrops (i : Nat) (v : Word)
  /-- RD_LEN_OVF (43 R149). -/
  | rdLenOvf (i : Nat)
  /-- WR_LEN_OVF (43 R154). -/
  | wrLenOvf (i : Nat) (v : Word)
  /-- RD_TRAILER_ERR (43 R149). -/
  | rdTrailerErr (i : Nat)
  /-- WR_TRAILER_ERR (43 R154). -/
  | wrTrailerErr (i : Nat) (v : Word)
  /-- RD_CSUM_ERR (43 R149). -/
  | rdCsumErr (i : Nat)
  /-- WR_CSUM_ERR (43 R154). -/
  | wrCsumErr (i : Nat) (v : Word)
  /-- RD_DISCARDED (43 R149). -/
  | rdDiscarded (i : Nat)
  /-- WR_DISCARDED (43 R154). -/
  | wrDiscarded (i : Nat) (v : Word)
  /-- RD_PSTATE (43 R150). -/
  | rdPstate (i : Nat)
  /-- WR_PSTATE (43 R154). -/
  | wrPstate (i : Nat) (v : Word)
  /-- RD_BUF_LEVEL (43 R151). -/
  | rdBufLevel (i : Nat)
  /-- WR_BUF_LEVEL (43 R154). -/
  | wrBufLevel (i : Nat) (v : Word)
  /-- CSR_RESERVED (43 R153): a word access to a reserved offset; `wr` is the data of a write. -/
  | csrReserved (off : Nat) (wr : Option Word)
  /-- CSR_MISALIGNED (43 R152): a misaligned or non-word access; `wr` is the data of a write. -/
  | csrMisaligned (off width : Nat) (wr : Option Word)
  /-- DELIVER (42 R131): the consumer takes the head event of slot `i`. -/
  | deliver (i : Nat)
  /-- RESET (70 R185). -/
  | reset
  deriving DecidableEq, Repr

/-- One step of an agent (10 R20, 30 R79). A host access carries its address relative to `CSR_BASE`
(DESIGN CHOICE, log 5). -/
inductive Stimulus where
  /-- A host read, `MemRead(CSR_BASE + rel, width)`. -/
  | read (rel : Int) (width : Nat)
  /-- A host write, `MemWrite(CSR_BASE + rel, width, v)`. -/
  | write (rel : Int) (width : Nat) (v : Word)
  /-- The network's datagram record (30 R68). -/
  | dgram (port : BitVec 16) (data : List Byte) (ts : Nat)
  /-- One framer step of slot `i` on its own: the model's own stimulus, for the framer rows of the operation
  table (DESIGN CHOICE, log 11). -/
  | framer (i ts : Nat)
  /-- The consumer serves slot `i`. -/
  | deliver (i : Nat)
  /-- The reset input is asserted. -/
  | reset
  deriving DecidableEq, Repr

/-- Why a stimulus selects no operation of 30 R78. -/
inductive Reject where
  /-- The access lies outside the CSR window: the block does not respond (43 R153). -/
  | outsideWindow
  /-- The stimulus names a slot at or above `N_PORTS`: the block has no such framer or queue (00 R6). -/
  | noSuchSlot
  /-- The consumer serves an empty queue: DELIVER is not selected (42 R131). -/
  | nothingQueued
  deriving DecidableEq, Repr

/-- What a decoder answers: an operation, or a rejection by name. -/
inductive Selection where
  | op (i : Instr)
  | rejected (r : Reject)
  deriving DecidableEq, Repr

end Sys2Proof
end

