-- ==== Sys2Proof/WellFormed.lean ====
section
/-! DEFINITION. Which terms of `Instr` are operations of a block with `n` slots and `w`-bit timestamps:
slots below `N_PORTS` (00 R6), timestamps of `TS_W` bits (30 R68), reserved offsets as 30 R70 lists them, and
refused accesses as 43 R152 says. -/

namespace Sys2Proof

/-- The size of the CSR window in bytes (20 R49). -/
def windowSize : Nat := 0x300

/-- The reserved aligned offsets of 30 R70 and R77, as the map lists them: three fixed gaps, the registers of the
slots at and above `N_PORTS`, and the tail of each slot's block. -/
def isReserved (n off : Nat) : Bool :=
  off % 4 == 0 &&
    ((0x018 ≤ off && off ≤ 0x03C)
      || (0x040 + 4 * n ≤ off && off ≤ 0x05C)
      || (0x060 ≤ off && off ≤ 0x0FC)
      || (0x100 ≤ off && off < windowSize && (n ≤ (off - 0x100) / 0x40 || 0x28 ≤ (off - 0x100) % 0x40)))

/-- An access that 43 R152 refuses, at an offset of the window. -/
def isMisaligned (off width : Nat) : Bool :=
  off < windowSize && (off % 4 != 0 || width != 4)

/-- `i` is an operation of a block with `n` slots and `w`-bit timestamps. -/
def Instr.wellFormed (n w : Nat) : Instr → Bool
  | .fWaitSync i ts | .fSync i ts | .fDrop i ts | .fWaitHdr i ts | .fLenOvf i ts
  | .fWaitBody i ts | .fReady i ts | .fEmit i ts | .fDiscard i ts | .fResume i ts => i < n && ts < 2 ^ w
  | .dgramRouted _ _ ts | .dgramUnrouted _ _ ts => ts < 2 ^ w
  | .rdParams | .wrParams _ | .rdProto | .wrProto _ | .rdCtrl | .wrCtrl _ | .rdStatus | .wrStatus _
  | .rdUnrouted | .wrUnrouted _ | .rdCmd | .cmdNone _ | .cmdStart _ | .cmdStop _ | .cmdIllegal _ => true
  | .rdPortCfg i | .wrPortCfg i _ | .rdRxDgrams i | .wrRxDgrams i _ | .rdRxBytes i | .wrRxBytes i _
  | .rdFramesOk i | .wrFramesOk i _ | .rdResyncDrops i | .wrResyncDrops i _ | .rdLenOvf i | .wrLenOvf i _
  | .rdTrailerErr i | .wrTrailerErr i _ | .rdCsumErr i | .wrCsumErr i _ | .rdDiscarded i | .wrDiscarded i _
  | .rdPstate i | .wrPstate i _ | .rdBufLevel i | .wrBufLevel i _ => i < n
  | .csrReserved off _ => isReserved n off
  | .csrMisaligned off width _ => isMisaligned off width
  | .deliver i => i < n
  | .reset => true

end Sys2Proof
end

