-- ==== Sys2Proof/Decode.lean ====
section
/-! DEFINITION. The encodings of spec/30_encoding.md: the field encodings, the header fields of a buffered frame,
the selection of a framer operation (R78), the decoding of a host access (R70), the decoder's answer for a word
of the operation table, and the encoder. What depends on the rest of the state is in Machine/Operands.lean. -/

namespace Sys2Proof

/-! ### Field encodings -/

/-- The 2-bit encoding of the framer state (10 R22). -/
def FState.bits : FState → BitVec 2
  | .seeking => 0
  | .haveHeader => 1
  | .haveFrame => 2
  | .yielded => 3

/-- The framer state a 2-bit code names (10 R22). -/
def FState.ofBits (b : BitVec 2) : FState :=
  if b = 0 then .seeking else if b = 1 then .haveHeader else if b = 2 then .haveFrame else .yielded

/-- The 2-bit encoding of a Port Role (10 R26). -/
def PortRole.bits : PortRole → BitVec 2
  | .commandResponse => 0
  | .telemetry => 1
  | .lidar => 2
  | .planning => 3

/-- The Port Role a 2-bit code names (10 R26). -/
def PortRole.ofBits (b : BitVec 2) : PortRole :=
  if b = 0 then .commandResponse else if b = 1 then .telemetry else if b = 2 then .lidar else .planning

/-! ### The header of a buffered frame -/

/-- `buf[k]` of 00 R11. Past the end it is a free value (log 12). -/
def peek (buf : List Byte) (k : Nat) : Byte := buf.getD k (Config.absentByte k)

/-- The length field `L = {buf[3], buf[4]}`, big-endian (20 R41, 30 R62). -/
def lengthField (buf : List Byte) : BitVec 16 := peek buf 3 ++ peek buf 4

/-- The head pair of the buffer is the sync pair (41 R92). -/
def syncAtHead (p : Params) (buf : List Byte) : Bool := peek buf 0 == p.sync0 && peek buf 1 == p.sync1

/-- The framer operation that 30 R78 selects in state `st` with buffer `buf`; `reject` is the gate decision of
41 R98, read in HaveFrame only. -/
def framerOp (p : Params) (reject : Bool) (st : FState) (buf : List Byte) : FramerOp :=
  match st with
  | .seeking =>
    if buf.length < 2 then .waitSync else if syncAtHead p buf then .sync else .drop
  | .haveHeader =>
    if buf.length < 5 then .waitHdr
    else if p.maxLen.toNat < (lengthField buf).toNat then .lenOvf
    else if buf.length < 8 + (lengthField buf).toNat then .waitBody
    else .ready
  | .haveFrame => if reject then .discard else .emit
  | .yielded => .resume

/-- A framer operation as an operation of slot `i` at timestamp `ts`. -/
def FramerOp.instr (o : FramerOp) (i ts : Nat) : Instr :=
  match o with
  | .waitSync => .fWaitSync i ts
  | .sync => .fSync i ts
  | .drop => .fDrop i ts
  | .waitHdr => .fWaitHdr i ts
  | .lenOvf => .fLenOvf i ts
  | .waitBody => .fWaitBody i ts
  | .ready => .fReady i ts
  | .emit => .fEmit i ts
  | .discard => .fDiscard i ts
  | .resume => .fResume i ts

/-! ### Host accesses -/

/-- The register at `field`, the low six offset bits, of slot `i`'s block (30 R70). -/
def slotReg (i field : Nat) : CsrReg :=
  if field = 0x00 then .rxDgrams i
  else if field = 0x04 then .rxBytes i
  else if field = 0x08 then .framesOk i
  else if field = 0x0C then .resyncDrops i
  else if field = 0x10 then .lenOvf i
  else if field = 0x14 then .trailerErr i
  else if field = 0x18 then .csumErr i
  else if field = 0x1C then .discarded i
  else if field = 0x20 then .pstate i
  else if field = 0x24 then .bufLevel i
  else .reserved

/-- The register of the CSR map (30 R70) at an aligned offset of the window, in a block with `n` slots. A slot at or
above `N_PORTS` has only reserved offsets (30 R77). -/
def regAt (n off : Nat) : CsrReg :=
  if off = 0x000 then .params
  else if off = 0x004 then .proto
  else if off = 0x008 then .ctrl
  else if off = 0x00C then .cmd
  else if off = 0x010 then .status
  else if off = 0x014 then .unrouted
  else if 0x040 ≤ off ∧ off < 0x060 ∧ (off - 0x040) / 4 < n then .portCfg ((off - 0x040) / 4)
  else if 0x100 ≤ off ∧ (off - 0x100) / 0x40 < n then slotReg ((off - 0x100) / 0x40) ((off - 0x100) % 0x40)
  else .reserved

/-- The operation that reads register `r`, at offset `off` (43 R140). -/
def readOp (off : Nat) (r : CsrReg) : Instr :=
  match r with
  | .params => .rdParams
  | .proto => .rdProto
  | .ctrl => .rdCtrl
  | .cmd => .rdCmd
  | .status => .rdStatus
  | .unrouted => .rdUnrouted
  | .portCfg i => .rdPortCfg i
  | .rxDgrams i => .rdRxDgrams i
  | .rxBytes i => .rdRxBytes i
  | .framesOk i => .rdFramesOk i
  | .resyncDrops i => .rdResyncDrops i
  | .lenOvf i => .rdLenOvf i
  | .trailerErr i => .rdTrailerErr i
  | .csumErr i => .rdCsumErr i
  | .discarded i => .rdDiscarded i
  | .pstate i => .rdPstate i
  | .bufLevel i => .rdBufLevel i
  | .reserved => .csrReserved off none

/-- The command a write of `v` to `CMD` issues (30 R73). -/
def cmdOp (v : Word) : Instr :=
  let hi : BitVec 30 := v.extractLsb' 2 30
  let c : BitVec 2 := v.extractLsb' 0 2
  if c = 0 then .cmdNone hi else if c = 1 then .cmdStart hi else if c = 2 then .cmdStop hi else .cmdIllegal hi

/-- The operation that writes `v` to register `r`, at offset `off` (43 R141). -/
def writeOp (off : Nat) (r : CsrReg) (v : Word) : Instr :=
  match r with
  | .params => .wrParams v
  | .proto => .wrProto v
  | .ctrl => .wrCtrl v
  | .cmd => cmdOp v
  | .status => .wrStatus v
  | .unrouted => .wrUnrouted v
  | .portCfg i => .wrPortCfg i v
  | .rxDgrams i => .wrRxDgrams i v
  | .rxBytes i => .wrRxBytes i v
  | .framesOk i => .wrFramesOk i v
  | .resyncDrops i => .wrResyncDrops i v
  | .lenOvf i => .wrLenOvf i v
  | .trailerErr i => .wrTrailerErr i v
  | .csumErr i => .wrCsumErr i v
  | .discarded i => .wrDiscarded i v
  | .pstate i => .wrPstate i v
  | .bufLevel i => .wrBufLevel i v
  | .reserved => .csrReserved off (some v)

/-- The decoding of a host access at `CSR_BASE + rel` (43 R140, R141): `wr` is the data of a write. The window is
tested first, since the block does not see another access (43 R153; DEDUCED, log 7). An access lies where its first
byte lies: one that starts below `CSR_BASE` and reaches into the window is outside it (DESIGN CHOICE, log 7). -/
def decodeCsr (n : Nat) (rel : Int) (width : Nat) (wr : Option Word) : Selection :=
  if rel < 0 ∨ (windowSize : Int) ≤ rel then .rejected .outsideWindow
  else
    let off := rel.toNat
    if off % 4 ≠ 0 ∨ width ≠ 4 then .op (.csrMisaligned off width wr)
    else
      match wr with
      | none => .op (readOp off (regAt n off))
      | some v => .op (writeOp off (regAt n off) v)

/-- `MemRead(addr, width)` of 00 R11 as a stimulus, for a window at `base = CSR_BASE`. -/
def memRead (base addr width : Nat) : Stimulus := .read ((addr : Int) - base) width

/-- `MemWrite(addr, width, v)` of 00 R11 as a stimulus, for a window at `base = CSR_BASE`. -/
def memWrite (base addr width : Nat) (v : Word) : Stimulus := .write ((addr : Int) - base) width v

/-! ### Words of the operation table -/

/-- The exclusive OR of a byte sequence, `XOR(s)` of 00 R10. -/
def xorAll (s : List Byte) : Byte := s.foldl (· ^^^ ·) 0

/-- A buffer with which the state code of a framer row selects an operation at once: nothing buffered in Seeking and
Yielded, the sync pair in HaveHeader, an empty frame in HaveFrame. The table gives the state code only (log 18). -/
def tableBuffer (p : Params) (st : FState) : List Byte :=
  match st with
  | .seeking => []
  | .haveHeader => [p.sync0, p.sync1]
  | .haveFrame => [p.sync0, p.sync1, 0, 0, 0, xorAll [p.sync0, p.sync1, 0, 0, 0], p.trailer0, p.trailer1]
  | .yielded => []

/-- The decoder's answer for a word of spec/opcode_table.json, numbered as the table numbers it (log 18): up to 8 bits, a
framer row by its state code, bits 1 to 0; up to 16 bits, a CSR read by its offset; up to 48 bits, a CSR write by its
offset with its data above bit 15. -/
def decodeTableWord (nbits w : Nat) : Option Instr :=
  let answer : Selection → Option Instr := fun d => match d with
    | .op i => some i
    | .rejected _ => none
  if nbits ≤ 8 then
    let st := FState.ofBits (BitVec.ofNat 2 w)
    some ((framerOp Config.params false st (tableBuffer Config.params st)).instr 0 0)
  else if nbits ≤ 16 then answer (decodeCsr Config.nPorts w 4 none)
  else if nbits ≤ 48 then
    answer (decodeCsr Config.nPorts (w % 2 ^ 16 : Nat) 4 (some (BitVec.ofNat 32 (w / 2 ^ 16))))
  else none

/-! ### The encoder -/

/-- The data of a `CMD` write with ignored bits `hi` and command `c` (30 R73). -/
def cmdData (hi : BitVec 30) (c : BitVec 2) : Word := hi ++ c

/-- A host word access at offset `off`: a read, or a write of the data. -/
def wordAccess (off : Nat) (wr : Option Word) : Stimulus :=
  match wr with
  | none => .read off 4
  | some v => .write off 4 v

/-- The offset of the register at `field` in slot `i`'s block (30 R70). -/
def slotOffset (i field : Nat) : Nat := 0x100 + 0x40 * i + field

/-- The stimulus that stands for operation `i`, from the tables 30 R68, R70, R73 and R78. -/
def encode (i : Instr) : Stimulus :=
  match i with
  | .fWaitSync i ts | .fSync i ts | .fDrop i ts | .fWaitHdr i ts | .fLenOvf i ts
  | .fWaitBody i ts | .fReady i ts | .fEmit i ts | .fDiscard i ts | .fResume i ts => .framer i ts
  | .dgramRouted port data ts | .dgramUnrouted port data ts => .dgram port data ts
  | .rdParams => wordAccess 0x000 none
  | .wrParams v => wordAccess 0x000 (some v)
  | .rdProto => wordAccess 0x004 none
  | .wrProto v => wordAccess 0x004 (some v)
  | .rdCtrl => wordAccess 0x008 none
  | .wrCtrl v => wordAccess 0x008 (some v)
  | .rdCmd => wordAccess 0x00C none
  | .cmdNone hi => wordAccess 0x00C (some (cmdData hi 0))
  | .cmdStart hi => wordAccess 0x00C (some (cmdData hi 1))
  | .cmdStop hi => wordAccess 0x00C (some (cmdData hi 2))
  | .cmdIllegal hi => wordAccess 0x00C (some (cmdData hi 3))
  | .rdStatus => wordAccess 0x010 none
  | .wrStatus v => wordAccess 0x010 (some v)
  | .rdUnrouted => wordAccess 0x014 none
  | .wrUnrouted v => wordAccess 0x014 (some v)
  | .rdPortCfg i => wordAccess (0x040 + 4 * i) none
  | .wrPortCfg i v => wordAccess (0x040 + 4 * i) (some v)
  | .rdRxDgrams i => wordAccess (slotOffset i 0x00) none
  | .wrRxDgrams i v => wordAccess (slotOffset i 0x00) (some v)
  | .rdRxBytes i => wordAccess (slotOffset i 0x04) none
  | .wrRxBytes i v => wordAccess (slotOffset i 0x04) (some v)
  | .rdFramesOk i => wordAccess (slotOffset i 0x08) none
  | .wrFramesOk i v => wordAccess (slotOffset i 0x08) (some v)
  | .rdResyncDrops i => wordAccess (slotOffset i 0x0C) none
  | .wrResyncDrops i v => wordAccess (slotOffset i 0x0C) (some v)
  | .rdLenOvf i => wordAccess (slotOffset i 0x10) none
  | .wrLenOvf i v => wordAccess (slotOffset i 0x10) (some v)
  | .rdTrailerErr i => wordAccess (slotOffset i 0x14) none
  | .wrTrailerErr i v => wordAccess (slotOffset i 0x14) (some v)
  | .rdCsumErr i => wordAccess (slotOffset i 0x18) none
  | .wrCsumErr i v => wordAccess (slotOffset i 0x18) (some v)
  | .rdDiscarded i => wordAccess (slotOffset i 0x1C) none
  | .wrDiscarded i v => wordAccess (slotOffset i 0x1C) (some v)
  | .rdPstate i => wordAccess (slotOffset i 0x20) none
  | .wrPstate i v => wordAccess (slotOffset i 0x20) (some v)
  | .rdBufLevel i => wordAccess (slotOffset i 0x24) none
  | .wrBufLevel i v => wordAccess (slotOffset i 0x24) (some v)
  | .csrReserved off wr => wordAccess off wr
  | .csrMisaligned off width none => .read off width
  | .csrMisaligned off width (some v) => .write off width v
  | .deliver i => .deliver i
  | .reset => .reset

/-! ### The pseudo-operations of the stimulus notation (30 R79) -/

/-- The value of a host write to `PORT_CFG[i]`, `(EN << 31) | (ROLE << 16) | UDP_PORT` (30 R71). -/
def cfgValue (en : Bool) (role : PortRole) (port : BitVec 16) : Word :=
  BitVec.ofBool en ++ (0 : BitVec 13) ++ role.bits ++ port

/-- `bind i PORT ROLE`. -/
def bindSlot (i : Nat) (port : BitVec 16) (role : PortRole) : Stimulus :=
  encode (.wrPortCfg i (cfgValue true role port))

/-- `unbind i`. -/
def unbindSlot (i : Nat) : Stimulus := encode (.wrPortCfg i 0)

/-- `start`. -/
def startBlock : Stimulus := encode (.cmdStart 0)

/-- `stop`. -/
def stopBlock : Stimulus := encode (.cmdStop 0)

/-- `permissive`. -/
def permissive : Stimulus := encode (.wrCtrl 0x0)

/-- `gated`. -/
def gated : Stimulus := encode (.wrCtrl 0x3)

end Sys2Proof
end

