-- ==== Sys2Proof/Machine/Flags.lean ====
section
/-! DEFINITION. The per-frame flags of spec/10_state.md rule R32 and the gate decision of 41 R98. The block has no
condition codes. -/

namespace Sys2Proof.Machine

/-- `buf[lo .. lo+len)` of 00 R10, byte by byte. -/
def slice (buf : List Byte) (lo len : Nat) : List Byte := (List.range len).map fun k => peek buf (lo + k)

/-- The declared payload length `L` of the frame at the head, as a number (30 R62). -/
def frameLen (buf : List Byte) : Nat := (lengthField buf).toNat

/-- The received checksum byte, at offset `5 + L` (30 R63). -/
def csumRx (buf : List Byte) : Byte := peek buf (5 + frameLen buf)

/-- The computed checksum, `XOR(buf[0 .. 5+L))` (30 R63, 40 R83). -/
def csumCalc (buf : List Byte) : Byte := xorAll (slice buf 0 (5 + frameLen buf))

/-- `csum_ok`: the received checksum byte equals the computed one (10 R32). -/
def csumOk (buf : List Byte) : Bool := csumCalc buf == csumRx buf

/-- `trailer_ok`: both trailer bytes are right (10 R32, 30 R64). -/
def trailerOk (p : Params) (buf : List Byte) : Bool :=
  peek buf (6 + frameLen buf) == p.trailer0 && peek buf (7 + frameLen buf) == p.trailer1

/-- `CTRL.GATE_CSUM` (10 R28). -/
def gateCsum (ctrl : Word) : Bool := ctrl.getLsbD 0

/-- `CTRL.GATE_TRAILER` (10 R28). -/
def gateTrailer (ctrl : Word) : Bool := ctrl.getLsbD 1

/-- `reject` of 41 R98: an enabled gate refuses the frame at the head. -/
def rejects (p : Params) (ctrl : Word) (buf : List Byte) : Bool :=
  (gateCsum ctrl && !csumOk buf) || (gateTrailer ctrl && !trailerOk p buf)

end Sys2Proof.Machine
end

