-- ==== Sys2Proof/Machine/State.lean ====
section
/-! DEFINITION. The state of spec/10_state.md as plain data, the reasons a step can stop, and the state after
reset (10 R35). -/

namespace Sys2Proof.Machine

/-- What a bound slot is bound to: an entry of `BOUND` (10 R27). -/
structure Binding where
  port : BitVec 16
  role : PortRole
  deriving DecidableEq, Repr

/-- The warnings of 60 R161 that have a `Warn` code. Codes 0 and 5..15 do not exist. -/
inductive WarnCode where
  | lenOverflow
  | trailerMismatch
  | csumMismatch
  | frameDiscarded
  deriving DecidableEq, Repr

/-- A delivered frame, `Msg` of 30 R69. -/
structure Msg where
  slot : BitVec 3
  udpPort : BitVec 16
  role : PortRole
  funcCode : Byte
  length : BitVec 16
  payload : List Byte
  csumRx : Byte
  csumCalc : Byte
  csumOk : Bool
  trailerOk : Bool
  ts : Nat
  deriving DecidableEq, Repr

/-- A logged warning, `Warn` of 30 R69. -/
structure Warn where
  slot : BitVec 3
  code : WarnCode
  funcCode : Byte
  length : BitVec 16
  ts : Nat
  deriving DecidableEq, Repr

/-- An output event (30 R69). -/
inductive Event where
  | msg (m : Msg)
  | warn (w : Warn)
  deriving DecidableEq, Repr

/-- One slot: its framer (10 R22 to R24), its row of the port table (10 R25, R27) and its output queue (10 R31). -/
structure Slot where
  /-- `f.st` (10 R22). -/
  st : FState
  /-- `f.buf`, head first (10 R23). -/
  buf : List Byte
  /-- `RX_DGRAMS[i]`. -/
  rxDgrams : Word
  /-- `RX_BYTES[i]`. -/
  rxBytes : Word
  /-- `FRAMES_OK[i]`. -/
  framesOk : Word
  /-- `RESYNC_DROPS[i]`. -/
  resyncDrops : Word
  /-- `LEN_OVF[i]`. -/
  lenOvf : Word
  /-- `TRAILER_ERR[i]`. -/
  trailerErr : Word
  /-- `CSUM_ERR[i]`. -/
  csumErr : Word
  /-- `DISCARDED[i]`. -/
  discarded : Word
  /-- `PORT_CFG[i]` (10 R25). -/
  portCfg : Word
  /-- `BOUND[i]` (10 R27). -/
  bound : Option Binding
  /-- `OUTQ[i]`, head first (10 R31). -/
  outq : List Event
  deriving DecidableEq, Repr

/-- The fields of `STATUS` (30 R74). -/
structure Status where
  running : Bool
  startFail : Bool
  cmdErr : Bool
  failSlot : BitVec 3
  failCause : BitVec 2
  deriving DecidableEq, Repr

/-- What the block drove on its interfaces during a step: the response to a host access (43 R140, R141) or the
event handed to the consumer (42 R131). -/
inductive Out where
  /-- No response and no event. -/
  | quiet
  /-- `Ok(v)`, the response to a read. -/
  | readOk (v : Word)
  /-- `Ok`, the response to a write. -/
  | writeOk
  /-- `BusErr` (43 R152). -/
  | busErr
  /-- The block does not respond (43 R153). -/
  | noResponse
  /-- Event `e` of slot `i` is handed to the consumer. -/
  | delivered (i : Nat) (e : Event)
  deriving DecidableEq, Repr

/-- The whole state. `par`, `bindAnswers`, `inbox` and `out` are the model's own fields (logs 3, 6, 1, 9). -/
structure State where
  /-- The parameters of the build (00 R6): constants, which no step writes. -/
  par : Params
  /-- Answers of the platform that are given as data, for (attempt, port) pairs: none after reset. Every other pair's
  answer is the OPEN draw `Config.bindRefused` (00 R6). No step writes it. -/
  bindAnswers : List ((Nat × BitVec 16) × Bool)
  /-- The `N_PORTS` slots. -/
  slots : List Slot
  /-- `CTRL` (10 R28). -/
  ctrl : Word
  /-- `STATUS` (10 R29). -/
  status : Status
  /-- `UNROUTED` (10 R29). -/
  unrouted : Word
  /-- `ATTEMPT` (10 R33). -/
  attempt : Nat
  /-- The agents' steps still to come, the next one first. -/
  inbox : List Stimulus
  /-- The interface outputs of the last step. -/
  out : Out
  deriving DecidableEq, Repr

/-- Reasons the machine stops with a fault: there are none, since "The block has no trap" and "No malformed input
stops it" (60 R160; log 25). Safe: nothing stops. -/
inductive Fault
  deriving DecidableEq, Repr

/-- Reasons an operation has no meaning in a state. -/
inductive Refusal where
  /-- Raised by `exec` for an operation without a meaning. No arm raises it. Safe. -/
  | notModelled (mnemonic : String)
  /-- Raised by the meaning of an operation that 30 R78 does not select in this state (log 10). The step function
  raises it never: it runs the selected operation. Safe: the machine stops. -/
  | notSelected (mnemonic : String)
  deriving DecidableEq, Repr

/-- A slot right after reset (10 R35). -/
def Slot.reset : Slot where
  st := .seeking
  buf := []
  rxDgrams := 0
  rxBytes := 0
  framesOk := 0
  resyncDrops := 0
  lenOvf := 0
  trailerErr := 0
  csumErr := 0
  discarded := 0
  portCfg := 0
  bound := none
  outq := []

/-- `STATUS` right after reset: `0x0000_0000`, stopped (10 R35). -/
def Status.reset : Status where
  running := false
  startFail := false
  cmdErr := false
  failSlot := 0
  failCause := 0

/-- The machine right after reset (10 R35), with the build's parameters, no answer of the platform given and no
agent step presented (logs 1, 3, 4, 6, 9). -/
def State.reset : State where
  par := Config.params
  bindAnswers := []
  slots := List.replicate Config.nPorts Slot.reset
  ctrl := 0
  status := Status.reset
  unrouted := 0
  attempt := 0
  inbox := []
  out := .quiet

end Sys2Proof.Machine
end

