-- ==== Sys2Proof/Machine/Ops.lean ====
section
/-! DEFINITION. The shared operations over the state: reading and writing one slot, the interface outputs, the
per-frame and per-datagram bookkeeping of spec/00_scope.md rule R11. -/

namespace Sys2Proof.Machine

/-! ### Slots -/

/-- `N_PORTS`: the number of slots the block holds (00 R6, log 4). -/
def State.nPorts (s : State) : Nat := s.slots.length

/-- Slot `i`. A slot at or above `N_PORTS` does not exist and reads as one right after reset, so that its registers
read zero (30 R77, log 23). -/
def State.slot (s : State) (i : Nat) : Slot := s.slots.getD i Slot.reset

/-- Rewrite slot `i`; nothing happens where there is no such slot. -/
def State.mapSlot (s : State) (i : Nat) (g : Slot → Slot) : State := { s with slots := s.slots.modify i g }

/-- Drive the interface outputs of a step. -/
def State.drive (s : State) (o : Out) : State := { s with out := o }

/-- The 3-bit slot number an event carries (30 R69). -/
def slotBits (i : Nat) : BitVec 3 := BitVec.ofNat 3 i

/-! ### The primitives of 00 R11 -/

/-- `inc(c)`: counters wrap modulo 2^32 (10 R30). -/
def inc (c : Word) : Word := c + 1

/-- `add(c, n)` (10 R30). -/
def add (c : Word) (n : Nat) : Word := c + BitVec.ofNat 32 n

/-- `Append(f, b)`. -/
def Slot.append (f : Slot) (b : Byte) : Slot := { f with buf := f.buf ++ [b] }

/-- `Drop(f, n)`. -/
def Slot.drop (f : Slot) (n : Nat) : Slot := { f with buf := f.buf.drop n }

/-- Append events to the slot's output queue, in order (00 R11, 10 R31). -/
def Slot.emit (f : Slot) (evs : List Event) : Slot := { f with outq := f.outq ++ evs }

/-- The 4-bit code of a warning (60 R161). -/
def WarnCode.bits : WarnCode → BitVec 4
  | .lenOverflow => 1
  | .trailerMismatch => 2
  | .csumMismatch => 3
  | .frameDiscarded => 4

/-- The warning `Warn(i, code, buf[2], L, ts)` about the header at the head of `buf` (30 R69). -/
def warning (i ts : Nat) (buf : List Byte) (code : WarnCode) : Event :=
  .warn { slot := slotBits i, code := code, funcCode := peek buf 2, length := lengthField buf, ts := ts }

/-- Refuse operation `mnemonic` where 30 R78 does not select it (log 10). -/
def notSelected (mnemonic : String) : Host.Outcome State Fault Refusal := .refused (.notSelected mnemonic)

/-! ### START and STOP on one slot -/

/-- What a successful START makes of a slot: latched binding, fresh framer, zero counters; `PORT_CFG` and `OUTQ` are
kept (42 R128). `b` is the slot's new entry of `BOUND`. -/
def Slot.start (f : Slot) (b : Option Binding) : Slot :=
  { Slot.reset with portCfg := f.portCfg, bound := b, outq := f.outq }

/-- What a STOP makes of a slot: unbound, its framer emptied, everything else kept (42 R130). -/
def Slot.stop (f : Slot) : Slot := { f with bound := none, st := .seeking, buf := [] }

/-! ### Placing a word of the operation table (log 18) -/

/-- The state in which the next step runs the operation that `decodeTableWord nbits w` gives: the stimulus of that
word stands first in the inbox, and for a framer row slot 0's framer is put where the state code selects it. -/
def State.placeWord (s : State) (nbits w : Nat) : State :=
  if nbits ≤ 8 then
    let st := FState.ofBits (BitVec.ofNat 2 w)
    { s.mapSlot 0 fun f => { f with st := st, buf := tableBuffer s.par st } with inbox := .framer 0 0 :: s.inbox }
  else if nbits ≤ 16 then { s with inbox := .read w 4 :: s.inbox }
  else { s with inbox := .write (w % 2 ^ 16 : Nat) 4 (BitVec.ofNat 32 (w / 2 ^ 16)) :: s.inbox }

end Sys2Proof.Machine
end

