-- ==== Sys2Proof/Machine/Operands.lean ====
section
/-! DEFINITION. What an operation reads: the fields of the registers (spec/30_encoding.md section 3), the words the
registers read as (43 R142 to R151), routing (42 R121), the bind check (42 R126), and the operation a stimulus
selects (30 R78). -/

namespace Sys2Proof.Machine

/-! ### `PORT_CFG` and `CTRL` -/

/-- The defined bits of `PORT_CFG[i]` (30 R71). -/
def portCfgMask : Word := 0x8003FFFF

/-- The defined bits of `CTRL` (30 R72). -/
def ctrlMask : Word := 0x00000003

/-- `PORT_CFG.EN` (30 R71). -/
def cfgEn (c : Word) : Bool := c.getLsbD 31

/-- `PORT_CFG.UDP_PORT` (30 R71). -/
def cfgPort (c : Word) : BitVec 16 := c.extractLsb' 0 16

/-- `PORT_CFG.ROLE` (30 R71). -/
def cfgRole (c : Word) : PortRole := PortRole.ofBits (c.extractLsb' 16 2)

/-- The entry of `BOUND` a successful START latches from `PORT_CFG` (42 R128). -/
def latched (c : Word) : Option Binding := if cfgEn c then some { port := cfgPort c, role := cfgRole c } else none

/-! ### The words the registers read as -/

/-- One bit as a vector. -/
def bit (b : Bool) : BitVec 1 := BitVec.ofBool b

/-- `PARAMS` reads `zext_32({N_PORTS[3:0], MAX_LEN[15:0]})` (43 R142). -/
def State.paramsWord (s : State) : Word := (BitVec.ofNat 4 s.nPorts ++ s.par.maxLen).zeroExtend 32

/-- `PROTO` reads `{TRAILER1, TRAILER0, SYNC1, SYNC0}` (43 R143). -/
def State.protoWord (s : State) : Word := s.par.trailer1 ++ s.par.trailer0 ++ s.par.sync1 ++ s.par.sync0

/-- `CTRL` reads its two gates, the rest zero (43 R144). -/
def State.ctrlWord (s : State) : Word := s.ctrl &&& ctrlMask

/-- `STATUS` reads its fields where 30 R74 puts them, the rest zero. -/
def Status.word (t : Status) : Word :=
  (0 : BitVec 18) ++ t.failCause ++ (0 : BitVec 1) ++ t.failSlot ++ (0 : BitVec 5) ++ bit t.cmdErr ++ bit t.startFail
    ++ bit t.running

/-- `PORT_CFG[i]` reads its defined bits (43 R148). -/
def Slot.portCfgWord (f : Slot) : Word := f.portCfg &&& portCfgMask

/-- `PSTATE[i]` reads `(BOUND[i] = (p, r) ? (p << 16) | (r << 4) | (1 << 2) : 0) | f_i.st` (43 R150). -/
def Slot.pstateWord (f : Slot) : Word :=
  (match f.bound with
    | some b => b.port.zeroExtend 32 <<< 16 ||| b.role.bits.zeroExtend 32 <<< 4 ||| 1 <<< 2
    | none => 0) ||| f.st.bits.zeroExtend 32

/-- `BUF_LEVEL[i]` reads `|f.buf|` in its 17 bits (43 R151, 30 R76). -/
def Slot.bufLevelWord (f : Slot) : Word := (BitVec.ofNat 17 f.buf.length).zeroExtend 32

/-! ### The `Msg` of a frame -/

/-- The port a `Msg` of slot `i` carries: `BOUND[i].udp_port` (42 R132). Unbound, it is a free value (log 13). -/
def Slot.msgPort (f : Slot) (i : Nat) : BitVec 16 :=
  match f.bound with
  | some b => b.port
  | none => Config.unboundPort i

/-- The role a `Msg` of slot `i` carries: `BOUND[i].role` (42 R132). Unbound, it is a free value (log 13). -/
def Slot.msgRole (f : Slot) (i : Nat) : PortRole :=
  match f.bound with
  | some b => b.role
  | none => PortRole.ofBits (Config.unboundRole i)

/-! ### Routing -/

/-- `Route(p)` (42 R121): the slot bound to port `p`. -/
def State.route (s : State) (p : BitVec 16) : Option Nat :=
  s.slots.findIdx? fun f => f.bound.any fun b => b.port == p

/-- The slot that receives a datagram for port `p`: routing counts only while `RUNNING = 1` (42 R120). -/
def State.ingressSlot (s : State) (p : BitVec 16) : Option Nat := if s.status.running then s.route p else none

/-! ### The bind check -/

/-- Why a bind fails (42 R126). -/
inductive BindCause where
  | portZero
  | duplicate
  | refused
  deriving DecidableEq, Repr

/-- The `FAIL_CAUSE` code of a cause (30 R74). -/
def BindCause.bits : BindCause → BitVec 2
  | .portZero => 1
  | .duplicate => 2
  | .refused => 3

/-- Why the slot configured as `c` cannot be bound, if it cannot; `before` holds the lower slots' configurations and
`refused` the platform's answers. The lowest cause number is reported (42 R126). -/
def bindFailure (refused : BitVec 16 → Bool) (before : List Word) (c : Word) : Option BindCause :=
  if !cfgEn c then none
  else if cfgPort c = 0 then some .portZero
  else if before.any fun d => cfgEn d && cfgPort d == cfgPort c then some .duplicate
  else if refused (cfgPort c) then some .refused
  else none

/-- The first slot that cannot be bound, scanning upward from slot `before.length` (42 R126). -/
def bindScan (refused : BitVec 16 → Bool) (before : List Word) : List Word → Option (Nat × BindCause)
  | [] => none
  | c :: rest =>
    match bindFailure refused before c with
    | some cause => some (before.length, cause)
    | none => bindScan refused (before ++ [c]) rest

/-- `BindRefused(a, p)` (00 R6): the platform refuses port `p` at START attempt `a`. The answer is the OPEN draw's,
but for a pair whose answer the state gives (log 6). -/
def State.refuses (s : State) (a : Nat) (p : BitVec 16) : Bool :=
  (s.bindAnswers.lookup (a, p)).getD (Config.bindRefused a p)

/-- `BindCheck(a)` (42 R126): `none` where every enabled slot can be bound. -/
def State.bindCheck (s : State) (a : Nat) : Option (Nat × BindCause) :=
  bindScan (s.refuses a) [] (s.slots.map (·.portCfg))

/-! ### The operation a stimulus selects -/

/-- The framer operation that applies to a slot (30 R78). -/
def framerChoice (p : Params) (ctrl : Word) (f : Slot) : FramerOp := framerOp p (rejects p ctrl f.buf) f.st f.buf

/-- A timestamp as the `TS_W` bits of the ingress interface (30 R68, log 15). -/
def State.stamp (s : State) (ts : Nat) : Nat := ts % 2 ^ s.par.tsW

/-- The operation a stimulus selects in a state (30 R78). -/
def State.select (s : State) (x : Stimulus) : Selection :=
  match x with
  | .read rel width => decodeCsr s.nPorts rel width none
  | .write rel width v => decodeCsr s.nPorts rel width (some v)
  | .dgram port data ts =>
    match s.ingressSlot port with
    | some _ => .op (.dgramRouted port data (s.stamp ts))
    | none => .op (.dgramUnrouted port data (s.stamp ts))
  | .framer i ts =>
    if i < s.nPorts then .op ((framerChoice s.par s.ctrl (s.slot i)).instr i (s.stamp ts))
    else .rejected .noSuchSlot
  | .deliver i =>
    if s.nPorts ≤ i then .rejected .noSuchSlot
    else if (s.slot i).outq = [] then .rejected .nothingQueued
    else .op (.deliver i)
  | .reset => .op .reset

/-- The state after a stimulus that selects no operation. The block does not change: outside the window it does not
respond (43 R153, log 8), and an empty queue or a slot the block does not have gives nothing (log 10). -/
def State.unselected (s : State) (r : Reject) : State :=
  match r with
  | .outsideWindow => s.drive .noResponse
  | .noSuchSlot => s.drive .quiet
  | .nothingQueued => s.drive .quiet

end Sys2Proof.Machine
end

