-- ==== Sys2Proof/Machine/Csr.lean ====
section
/-! DEFINITION. The control and status register accesses of spec/43_csr.md, but for the commands. -/

namespace Sys2Proof.Machine

/-- A read that answers `Ok(v)`: it changes no state (20 R47, 43 R140). -/
def readAnswer (v : Word) (s : State) : Host.Outcome State Fault Refusal := .next (s.drive (.readOk v))

/-- A write that answers `Ok` and changes nothing (43 R153, R154). -/
def writeIgnored (s : State) : Host.Outcome State Fault Refusal := .next (s.drive .writeOk)

/-! ### Global registers -/

/-- RD_PARAMS (43 R142). -/
def execRdParams (s : State) : Host.Outcome State Fault Refusal := readAnswer s.paramsWord s

/-- RD_PROTO (43 R143). -/
def execRdProto (s : State) : Host.Outcome State Fault Refusal := readAnswer s.protoWord s

/-- RD_CTRL (43 R144). -/
def execRdCtrl (s : State) : Host.Outcome State Fault Refusal := readAnswer s.ctrlWord s

/-- RD_STATUS (43 R146). -/
def execRdStatus (s : State) : Host.Outcome State Fault Refusal := readAnswer s.status.word s

/-- RD_UNROUTED (43 R147). -/
def execRdUnrouted (s : State) : Host.Outcome State Fault Refusal := readAnswer s.unrouted s

/-- RD_CMD (43 R145). `CMD` reads zero. -/
def execRdCmd (s : State) : Host.Outcome State Fault Refusal := readAnswer 0 s

/-- WR_PARAMS (43 R154). -/
def execWrParams (_v : Word) (s : State) : Host.Outcome State Fault Refusal := writeIgnored s

/-- WR_PROTO (43 R154). -/
def execWrProto (_v : Word) (s : State) : Host.Outcome State Fault Refusal := writeIgnored s

/-- WR_UNROUTED (43 R154). -/
def execWrUnrouted (_v : Word) (s : State) : Host.Outcome State Fault Refusal := writeIgnored s

/-- WR_CTRL (43 R144): the defined bits are stored. -/
def execWrCtrl (v : Word) (s : State) : Host.Outcome State Fault Refusal :=
  .next ({ s with ctrl := v &&& ctrlMask }.drive .writeOk)

/-- `STATUS` after a write of `v`: a 1 in bit 1 clears `START_FAIL`, `FAIL_SLOT` and `FAIL_CAUSE`, a 1 in bit 2 clears
`CMD_ERR`, and every other bit is ignored (43 R146). -/
def Status.cleared (t : Status) (v : Word) : Status where
  running := t.running
  startFail := if v.getLsbD 1 then false else t.startFail
  cmdErr := if v.getLsbD 2 then false else t.cmdErr
  failSlot := if v.getLsbD 1 then 0 else t.failSlot
  failCause := if v.getLsbD 1 then 0 else t.failCause

/-- WR_STATUS (43 R146). -/
def execWrStatus (v : Word) (s : State) : Host.Outcome State Fault Refusal :=
  .next ({ s with status := s.status.cleared v }.drive .writeOk)

/-! ### Per-slot registers -/

/-- RD_PORT_CFG (43 R148). -/
def execRdPortCfg (i : Nat) (s : State) : Host.Outcome State Fault Refusal := readAnswer (s.slot i).portCfgWord s

/-- WR_PORT_CFG (43 R148): the defined bits are stored; routing does not change (20 R55). -/
def execWrPortCfg (i : Nat) (v : Word) (s : State) : Host.Outcome State Fault Refusal :=
  .next ((s.mapSlot i fun f => { f with portCfg := v &&& portCfgMask }).drive .writeOk)

/-- RD_RX_DGRAMS (43 R149). -/
def execRdRxDgrams (i : Nat) (s : State) : Host.Outcome State Fault Refusal := readAnswer (s.slot i).rxDgrams s

/-- WR_RX_DGRAMS (43 R154). -/
def execWrRxDgrams (_i : Nat) (_v : Word) (s : State) : Host.Outcome State Fault Refusal := writeIgnored s

/-- RD_RX_BYTES (43 R149). -/
def execRdRxBytes (i : Nat) (s : State) : Host.Outcome State Fault Refusal := readAnswer (s.slot i).rxBytes s

/-- WR_RX_BYTES (43 R154). -/
def execWrRxBytes (_i : Nat) (_v : Word) (s : State) : Host.Outcome State Fault Refusal := writeIgnored s

/-- RD_FRAMES_OK (43 R149). -/
def execRdFramesOk (i : Nat) (s : State) : Host.Outcome State Fault Refusal := readAnswer (s.slot i).framesOk s

/-- WR_FRAMES_OK (43 R154). -/
def execWrFramesOk (_i : Nat) (_v : Word) (s : State) : Host.Outcome State Fault Refusal := writeIgnored s

/-- RD_RESYNC_DROPS (43 R149). -/
def execRdResyncDrops (i : Nat) (s : State) : Host.Outcome State Fault Refusal := readAnswer (s.slot i).resyncDrops s

/-- WR_RESYNC_DROPS (43 R154). -/
def execWrResyncDrops (_i : Nat) (_v : Word) (s : State) : Host.Outcome State Fault Refusal := writeIgnored s

/-- RD_LEN_OVF (43 R149). -/
def execRdLenOvf (i : Nat) (s : State) : Host.Outcome State Fault Refusal := readAnswer (s.slot i).lenOvf s

/-- WR_LEN_OVF (43 R154). -/
def execWrLenOvf (_i : Nat) (_v : Word) (s : State) : Host.Outcome State Fault Refusal := writeIgnored s

/-- RD_TRAILER_ERR (43 R149). -/
def execRdTrailerErr (i : Nat) (s : State) : Host.Outcome State Fault Refusal := readAnswer (s.slot i).trailerErr s

/-- WR_TRAILER_ERR (43 R154). -/
def execWrTrailerErr (_i : Nat) (_v : Word) (s : State) : Host.Outcome State Fault Refusal := writeIgnored s

/-- RD_CSUM_ERR (43 R149). -/
def execRdCsumErr (i : Nat) (s : State) : Host.Outcome State Fault Refusal := readAnswer (s.slot i).csumErr s

/-- WR_CSUM_ERR (43 R154). -/
def execWrCsumErr (_i : Nat) (_v : Word) (s : State) : Host.Outcome State Fault Refusal := writeIgnored s

/-- RD_DISCARDED (43 R149). -/
def execRdDiscarded (i : Nat) (s : State) : Host.Outcome State Fault Refusal := readAnswer (s.slot i).discarded s

/-- WR_DISCARDED (43 R154). -/
def execWrDiscarded (_i : Nat) (_v : Word) (s : State) : Host.Outcome State Fault Refusal := writeIgnored s

/-- RD_PSTATE (43 R150). -/
def execRdPstate (i : Nat) (s : State) : Host.Outcome State Fault Refusal := readAnswer (s.slot i).pstateWord s

/-- WR_PSTATE (43 R154). -/
def execWrPstate (_i : Nat) (_v : Word) (s : State) : Host.Outcome State Fault Refusal := writeIgnored s

/-- RD_BUF_LEVEL (43 R151). -/
def execRdBufLevel (i : Nat) (s : State) : Host.Outcome State Fault Refusal := readAnswer (s.slot i).bufLevelWord s

/-- WR_BUF_LEVEL (43 R154). -/
def execWrBufLevel (_i : Nat) (_v : Word) (s : State) : Host.Outcome State Fault Refusal := writeIgnored s

/-! ### Reserved and refused accesses -/

/-- CSR_RESERVED (43 R153): a read answers zero, a write is ignored. -/
def execCsrReserved (off : Nat) (wr : Option Word) (s : State) : Host.Outcome State Fault Refusal :=
  if off % 4 = 0 ∧ off < windowSize ∧ regAt s.nPorts off = .reserved then
    match wr with
    | none => readAnswer 0 s
    | some _ => writeIgnored s
  else notSelected "CSR_RESERVED"

/-- CSR_MISALIGNED (43 R152): the response is `BusErr` and no state changes. -/
def execCsrMisaligned (off width : Nat) (_wr : Option Word) (s : State) : Host.Outcome State Fault Refusal :=
  if off < windowSize ∧ (off % 4 ≠ 0 ∨ width ≠ 4) then .next (s.drive .busErr)
  else notSelected "CSR_MISALIGNED"

end Sys2Proof.Machine
end

