-- ==== Sys2Proof/Machine/Codec.lean ====
section
/-! DEFINITION. The frame codec of spec/40_frame_codec.md: pure functions over byte sequences. -/

namespace Sys2Proof.Machine

/-- `Csum(fc, L, p)` (40 R80). -/
def csum (p : Params) (fc : Byte) (len : BitVec 16) (payload : List Byte) : Byte :=
  p.sync0 ^^^ p.sync1 ^^^ fc ^^^ len.extractLsb' 8 8 ^^^ len.extractLsb' 0 8 ^^^ xorAll payload

/-- `EncodeFrame(fc, p)` (40 R82), the reference function. It is refused outside its precondition
`|p| <= 65535` (93 I23). -/
def encodeFrame (p : Params) (fc : Byte) (payload : List Byte) : Option (List Byte) :=
  if payload.length ≤ 65535 then
    let len := BitVec.ofNat 16 payload.length
    some ([p.sync0, p.sync1, fc, len.extractLsb' 8 8, len.extractLsb' 0 8] ++ payload
      ++ [csum p fc len payload] ++ [p.trailer0, p.trailer1])
  else none

/-- The fields of a complete frame (40 R83). -/
structure Frame where
  funcCode : Byte
  length : BitVec 16
  payload : List Byte
  csumRx : Byte
  csumCalc : Byte
  csumOk : Bool
  trailerOk : Bool
  consumed : Nat
  deriving DecidableEq, Repr

/-- The result of `DecodeFrame` (40 R83). -/
inductive DecodeResult where
  | incomplete
  | badSync
  | lengthOverflow
  | frame (f : Frame)
  deriving DecidableEq, Repr

/-- The fields `DecodeFrame` returns once its checks have passed (40 R83, R84). -/
def frameFields (p : Params) (b : List Byte) : Frame where
  funcCode := peek b 2
  length := lengthField b
  payload := slice b 5 (frameLen b)
  csumRx := csumRx b
  csumCalc := csumCalc b
  csumOk := csumOk b
  trailerOk := trailerOk p b
  consumed := 8 + frameLen b

/-- `DecodeFrame(b)` (40 R83), its checks in the source's order. -/
def decodeFrame (p : Params) (b : List Byte) : DecodeResult :=
  if b.length < 8 then .incomplete
  else if !syncAtHead p b then .badSync
  else if p.maxLen.toNat < frameLen b then .lengthOverflow
  else if b.length < 8 + frameLen b then .incomplete
  else .frame (frameFields p b)

end Sys2Proof.Machine
end

