-- ==== Sys2Proof/Machine/Framer.lean ====
section
/-! DEFINITION. The stream framer of spec/41_framer.md: the ten operations on one slot, the step function, the run to
quiescence and the feed; and the meanings of the framer rows. -/

namespace Sys2Proof.Machine

/-- The result of a framer step (41 R90): `wait`, or the new slot and the events to append to its queue. -/
inductive FramerResult where
  | wait
  | next (f : Slot) (evs : List Event)
  deriving DecidableEq, Repr

/-! ### The ten operations on one slot -/

/-- F_WAIT_SYNC (41 R91). -/
def fWaitSync (_ : Slot) : FramerResult := .wait

/-- F_SYNC (41 R92). -/
def fSync (f : Slot) : FramerResult := .next { f with st := .haveHeader } []

/-- F_DROP (41 R93). -/
def fDrop (f : Slot) : FramerResult := .next { f.drop 1 with resyncDrops := inc f.resyncDrops } []

/-- F_WAIT_HDR (41 R94). -/
def fWaitHdr (_ : Slot) : FramerResult := .wait

/-- F_LEN_OVF (41 R95). -/
def fLenOvf (i ts : Nat) (f : Slot) : FramerResult :=
  .next { f.drop 1 with st := .seeking, lenOvf := inc f.lenOvf } [warning i ts f.buf .lenOverflow]

/-- F_WAIT_BODY (41 R96). -/
def fWaitBody (_ : Slot) : FramerResult := .wait

/-- F_READY (41 R97). -/
def fReady (f : Slot) : FramerResult := .next { f with st := .haveFrame } []

/-- The counting part of the HaveFrame evaluation (41 R98). -/
def countMismatches (p : Params) (f : Slot) : Slot :=
  { f with
    trailerErr := if trailerOk p f.buf then f.trailerErr else inc f.trailerErr
    csumErr := if csumOk f.buf then f.csumErr else inc f.csumErr }

/-- The warnings of the HaveFrame evaluation, trailer first (41 R98, 60 R171). -/
def mismatchWarnings (p : Params) (i ts : Nat) (buf : List Byte) : List Event :=
  (if trailerOk p buf then [] else [warning i ts buf .trailerMismatch])
    ++ (if csumOk buf then [] else [warning i ts buf .csumMismatch])

/-- The `Msg` of the frame at the head of slot `i` (41 R99, 42 R132). -/
def frameMsg (p : Params) (i ts : Nat) (f : Slot) : Event :=
  let r := frameFields p f.buf
  .msg {
    slot := slotBits i
    udpPort := f.msgPort i
    role := f.msgRole i
    funcCode := r.funcCode
    length := r.length
    payload := r.payload
    csumRx := r.csumRx
    csumCalc := r.csumCalc
    csumOk := r.csumOk
    trailerOk := r.trailerOk
    ts := ts }

/-- F_EMIT (41 R98, R99). -/
def fEmit (p : Params) (i ts : Nat) (f : Slot) : FramerResult :=
  .next { (countMismatches p f).drop (8 + frameLen f.buf) with st := .yielded, framesOk := inc f.framesOk }
    (mismatchWarnings p i ts f.buf ++ [frameMsg p i ts f])

/-- F_DISCARD (41 R98, R100). -/
def fDiscard (p : Params) (i ts : Nat) (f : Slot) : FramerResult :=
  .next { (countMismatches p f).drop 1 with st := .seeking, discarded := inc f.discarded }
    (mismatchWarnings p i ts f.buf ++ [warning i ts f.buf .frameDiscarded])

/-- F_RESUME (41 R101). -/
def fResume (f : Slot) : FramerResult := .next { f with st := .seeking } []

/-! ### The step, the run and the feed -/

/-- `FramerStep(f, ctrl, i, ts)` (41 R90, R102): the one operation that applies, applied. -/
def framerStep (p : Params) (ctrl : Word) (i ts : Nat) (f : Slot) : FramerResult :=
  match framerChoice p ctrl f with
  | .waitSync => fWaitSync f
  | .sync => fSync f
  | .drop => fDrop f
  | .waitHdr => fWaitHdr f
  | .lenOvf => fLenOvf i ts f
  | .waitBody => fWaitBody f
  | .ready => fReady f
  | .emit => fEmit p i ts f
  | .discard => fDiscard p i ts f
  | .resume => fResume f

/-- The rank of a framer state in the termination measure (41 R103). -/
def rank : FState → Nat
  | .yielded => 4
  | .seeking => 3
  | .haveHeader => 2
  | .haveFrame => 1

/-- The termination measure `mu(f) = 5 * |f.buf| + rank(f.st)` (41 R103). -/
def mu (f : Slot) : Nat := 5 * f.buf.length + rank f.st

/-- At most `k` framer steps, each step's events appended to the queue, stopping at the first `wait` (41 R104). -/
def runFramer (p : Params) (ctrl : Word) (i ts : Nat) : Nat → Slot → Slot
  | 0, f => f
  | k + 1, f =>
    match framerStep p ctrl i ts f with
    | .wait => f
    | .next f' evs => runFramer p ctrl i ts k (f'.emit evs)

/-- `RunToQuiescence(f, ctrl, i, ts)` (41 R104), with the fuel bound of 41 R103 (DEDUCED, log 14). -/
def runToQuiescence (p : Params) (ctrl : Word) (i ts : Nat) (f : Slot) : Slot := runFramer p ctrl i ts (mu f + 1) f

/-- `Feed(f, data, ctrl, i, ts)` (41 R105): byte by byte, the framer run to quiescence after each. -/
def feed (p : Params) (ctrl : Word) (i ts : Nat) (data : List Byte) (f : Slot) : Slot :=
  data.foldl (fun g b => runToQuiescence p ctrl i ts (g.append b)) f

/-! ### The framer rows -/

/-- One framer step of slot `i` by operation `o`, where 30 R78 selects it: its effect on the slot, its events on the
slot's queue, and nothing on the interfaces (41 R90, R109). -/
def framerRow (o : FramerOp) (mnemonic : String) (effect : Slot → FramerResult) (i : Nat) (s : State) :
    Host.Outcome State Fault Refusal :=
  if i < s.nPorts ∧ framerChoice s.par s.ctrl (s.slot i) = o then
    match effect (s.slot i) with
    | .wait => .next (s.drive .quiet)
    | .next f evs => .next ((s.mapSlot i fun _ => f.emit evs).drive .quiet)
  else notSelected mnemonic

/-- F_WAIT_SYNC (41 R91). -/
def execFWaitSync (i _ts : Nat) (s : State) : Host.Outcome State Fault Refusal :=
  framerRow .waitSync "F_WAIT_SYNC" fWaitSync i s

/-- F_SYNC (41 R92). -/
def execFSync (i _ts : Nat) (s : State) : Host.Outcome State Fault Refusal :=
  framerRow .sync "F_SYNC" fSync i s

/-- F_DROP (41 R93). -/
def execFDrop (i _ts : Nat) (s : State) : Host.Outcome State Fault Refusal :=
  framerRow .drop "F_DROP" fDrop i s

/-- F_WAIT_HDR (41 R94). -/
def execFWaitHdr (i _ts : Nat) (s : State) : Host.Outcome State Fault Refusal :=
  framerRow .waitHdr "F_WAIT_HDR" fWaitHdr i s

/-- F_LEN_OVF (41 R95). -/
def execFLenOvf (i ts : Nat) (s : State) : Host.Outcome State Fault Refusal :=
  framerRow .lenOvf "F_LEN_OVF" (fLenOvf i ts) i s

/-- F_WAIT_BODY (41 R96). -/
def execFWaitBody (i _ts : Nat) (s : State) : Host.Outcome State Fault Refusal :=
  framerRow .waitBody "F_WAIT_BODY" fWaitBody i s

/-- F_READY (41 R97). -/
def execFReady (i _ts : Nat) (s : State) : Host.Outcome State Fault Refusal :=
  framerRow .ready "F_READY" fReady i s

/-- F_EMIT (41 R98, R99). -/
def execFEmit (i ts : Nat) (s : State) : Host.Outcome State Fault Refusal :=
  framerRow .emit "F_EMIT" (fEmit s.par i ts) i s

/-- F_DISCARD (41 R98, R100). -/
def execFDiscard (i ts : Nat) (s : State) : Host.Outcome State Fault Refusal :=
  framerRow .discard "F_DISCARD" (fDiscard s.par i ts) i s

/-- F_RESUME (41 R101). -/
def execFResume (i _ts : Nat) (s : State) : Host.Outcome State Fault Refusal :=
  framerRow .resume "F_RESUME" fResume i s

end Sys2Proof.Machine
end

