-- ==== Sys2Proof/Machine/Transport.lean ====
section
/-! DEFINITION. The demultiplexer and the lifecycle of spec/42_transport.md, the command decoding of 43 R145, and the
reset step of 70 R185. -/

namespace Sys2Proof.Machine

/-! ### Datagrams -/

/-- What a routed datagram does to its slot: both receive counters, then the feed (42 R123). -/
def receive (p : Params) (ctrl : Word) (i ts : Nat) (data : List Byte) (f : Slot) : Slot :=
  feed p ctrl i ts data { f with rxDgrams := inc f.rxDgrams, rxBytes := add f.rxBytes data.length }

/-- DGRAM_ROUTED (42 R120, R123): the whole datagram in one step. -/
def execDgramRouted (port : BitVec 16) (data : List Byte) (ts : Nat) (s : State) :
    Host.Outcome State Fault Refusal :=
  match s.ingressSlot port with
  | some i => .next ((s.mapSlot i (receive s.par s.ctrl i ts data)).drive .quiet)
  | none => notSelected "DGRAM_ROUTED"

/-- DGRAM_UNROUTED (42 R122): counted and dropped. -/
def execDgramUnrouted (port : BitVec 16) (_data : List Byte) (_ts : Nat) (s : State) :
    Host.Outcome State Fault Refusal :=
  match s.ingressSlot port with
  | some _ => notSelected "DGRAM_UNROUTED"
  | none => .next ({ s with unrouted := inc s.unrouted }.drive .quiet)

/-! ### Commands -/

/-- START while running (42 R129), and an illegal command (43 R145): `CMD_ERR` is set, nothing else. -/
def State.commandError (s : State) : State := { s with status := { s.status with cmdErr := true } }

/-- A failed START (42 R127): three fields of `STATUS`, nothing else but the attempt counter. -/
def State.startFailed (s : State) (i : Nat) (cause : BindCause) : State :=
  { s with status := { s.status with startFail := true, failSlot := slotBits i, failCause := cause.bits } }

/-- A successful START (42 R128). -/
def State.startOk (s : State) : State :=
  { s with
    slots := s.slots.map fun f => f.start (latched f.portCfg)
    unrouted := 0
    status := { s.status with running := true } }

/-- START (42 R125). -/
def State.startCommand (s : State) : State :=
  if s.status.running then s.commandError
  else
    let s := { s with attempt := s.attempt + 1 }
    match s.bindCheck s.attempt with
    | some (i, cause) => s.startFailed i cause
    | none => s.startOk

/-- STOP (42 R130): no effect while stopped. -/
def State.stopCommand (s : State) : State :=
  if s.status.running then
    { s with slots := s.slots.map Slot.stop, status := { s.status with running := false } }
  else s

/-- CMD_NONE (43 R145). -/
def execCmdNone (_hi : BitVec 30) (s : State) : Host.Outcome State Fault Refusal := .next (s.drive .writeOk)

/-- CMD_START (42 R125). -/
def execCmdStart (_hi : BitVec 30) (s : State) : Host.Outcome State Fault Refusal :=
  .next (s.startCommand.drive .writeOk)

/-- CMD_STOP (42 R130). -/
def execCmdStop (_hi : BitVec 30) (s : State) : Host.Outcome State Fault Refusal :=
  .next (s.stopCommand.drive .writeOk)

/-- CMD_ILLEGAL (43 R145). -/
def execCmdIllegal (_hi : BitVec 30) (s : State) : Host.Outcome State Fault Refusal :=
  .next (s.commandError.drive .writeOk)

/-! ### Delivery and reset -/

/-- DELIVER (42 R131): the head event of slot `i` is handed to the consumer. -/
def execDeliver (i : Nat) (s : State) : Host.Outcome State Fault Refusal :=
  match (s.slot i).outq with
  | [] => notSelected "DELIVER"
  | e :: rest => .next ((s.mapSlot i fun f => { f with outq := rest }).drive (.delivered i e))

/-- RESET (70 R185): every piece of state takes its reset value. The build's parameters, the platform's answers and
the agents' later steps are not state of the block and stay (log 24). -/
def execReset (s : State) : Host.Outcome State Fault Refusal :=
  .next { s with
    slots := s.slots.map fun _ => Slot.reset
    ctrl := 0
    status := Status.reset
    unrouted := 0
    attempt := 0
    out := .quiet }

end Sys2Proof.Machine
end

