-- ==== Sys2Proof/Machine/Dispatch.lean ====
section
/-! DEFINITION. The meaning of each operation, one arm a constructor of `Instr` (spec/opcode_table.json). -/

namespace Sys2Proof.Machine

def exec (i : Instr) (s : State) : Host.Outcome State Fault Refusal :=
  match i with
  | .fWaitSync slot ts => Sys2Proof.Machine.execFWaitSync slot ts s
  | .fSync slot ts => Sys2Proof.Machine.execFSync slot ts s
  | .fDrop slot ts => Sys2Proof.Machine.execFDrop slot ts s
  | .fWaitHdr slot ts => Sys2Proof.Machine.execFWaitHdr slot ts s
  | .fLenOvf slot ts => Sys2Proof.Machine.execFLenOvf slot ts s
  | .fWaitBody slot ts => Sys2Proof.Machine.execFWaitBody slot ts s
  | .fReady slot ts => Sys2Proof.Machine.execFReady slot ts s
  | .fEmit slot ts => Sys2Proof.Machine.execFEmit slot ts s
  | .fDiscard slot ts => Sys2Proof.Machine.execFDiscard slot ts s
  | .fResume slot ts => Sys2Proof.Machine.execFResume slot ts s
  | .dgramRouted port data ts => Sys2Proof.Machine.execDgramRouted port data ts s
  | .dgramUnrouted port data ts => Sys2Proof.Machine.execDgramUnrouted port data ts s
  | .rdParams => Sys2Proof.Machine.execRdParams s
  | .wrParams v => Sys2Proof.Machine.execWrParams v s
  | .rdProto => Sys2Proof.Machine.execRdProto s
  | .wrProto v => Sys2Proof.Machine.execWrProto v s
  | .rdCtrl => Sys2Proof.Machine.execRdCtrl s
  | .wrCtrl v => Sys2Proof.Machine.execWrCtrl v s
  | .rdStatus => Sys2Proof.Machine.execRdStatus s
  | .wrStatus v => Sys2Proof.Machine.execWrStatus v s
  | .rdUnrouted => Sys2Proof.Machine.execRdUnrouted s
  | .wrUnrouted v => Sys2Proof.Machine.execWrUnrouted v s
  | .rdCmd => Sys2Proof.Machine.execRdCmd s
  | .cmdNone hi => Sys2Proof.Machine.execCmdNone hi s
  | .cmdStart hi => Sys2Proof.Machine.execCmdStart hi s
  | .cmdStop hi => Sys2Proof.Machine.execCmdStop hi s
  | .cmdIllegal hi => Sys2Proof.Machine.execCmdIllegal hi s
  | .rdPortCfg slot => Sys2Proof.Machine.execRdPortCfg slot s
  | .wrPortCfg slot v => Sys2Proof.Machine.execWrPortCfg slot v s
  | .rdRxDgrams slot => Sys2Proof.Machine.execRdRxDgrams slot s
  | .wrRxDgrams slot v => Sys2Proof.Machine.execWrRxDgrams slot v s
  | .rdRxBytes slot => Sys2Proof.Machine.execRdRxBytes slot s
  | .wrRxBytes slot v => Sys2Proof.Machine.execWrRxBytes slot v s
  | .rdFramesOk slot => Sys2Proof.Machine.execRdFramesOk slot s
  | .wrFramesOk slot v => Sys2Proof.Machine.execWrFramesOk slot v s
  | .rdResyncDrops slot => Sys2Proof.Machine.execRdResyncDrops slot s
  | .wrResyncDrops slot v => Sys2Proof.Machine.execWrResyncDrops slot v s
  | .rdLenOvf slot => Sys2Proof.Machine.execRdLenOvf slot s
  | .wrLenOvf slot v => Sys2Proof.Machine.execWrLenOvf slot v s
  | .rdTrailerErr slot => Sys2Proof.Machine.execRdTrailerErr slot s
  | .wrTrailerErr slot v => Sys2Proof.Machine.execWrTrailerErr slot v s
  | .rdCsumErr slot => Sys2Proof.Machine.execRdCsumErr slot s
  | .wrCsumErr slot v => Sys2Proof.Machine.execWrCsumErr slot v s
  | .rdDiscarded slot => Sys2Proof.Machine.execRdDiscarded slot s
  | .wrDiscarded slot v => Sys2Proof.Machine.execWrDiscarded slot v s
  | .rdPstate slot => Sys2Proof.Machine.execRdPstate slot s
  | .wrPstate slot v => Sys2Proof.Machine.execWrPstate slot v s
  | .rdBufLevel slot => Sys2Proof.Machine.execRdBufLevel slot s
  | .wrBufLevel slot v => Sys2Proof.Machine.execWrBufLevel slot v s
  | .csrReserved off wr => Sys2Proof.Machine.execCsrReserved off wr s
  | .csrMisaligned off width wr => Sys2Proof.Machine.execCsrMisaligned off width wr s
  | .deliver slot => Sys2Proof.Machine.execDeliver slot s
  | .reset => Sys2Proof.Machine.execReset s

end Sys2Proof.Machine
end

