-- ==== Sys2Proof/Machine/Step.lean ====
section
/-! DEFINITION. One step of the machine (spec/00_scope.md rule R12): the next agent's step of the inbox, taken in one
atomic step. -/

namespace Sys2Proof.Machine

/-- One step. The stimulus at the head of the inbox is taken away and the operation it selects is executed; one that
selects none leaves the block as it is. With no stimulus the block waits (41 R111, log 2). -/
def step (s : State) : Host.Outcome State Fault Refusal :=
  match s.inbox with
  | [] => .next (s.drive .quiet)
  | x :: rest =>
    match s.select x with
    | .op i => exec i { s with inbox := rest }
    | .rejected r => .next ({ s with inbox := rest }.unselected r)

/-- `s` with the operation of a table word placed so that the next step runs it (log 18). -/
def State.withFetchWord (s : State) (nbits w : Nat) : State := s.placeWord nbits w

end Sys2Proof.Machine
end

