-- ==== Sys2Proof/Safety.lean ====
section
/-! DEFINITION. The terms the statements use: when the operation table selects an operation (30 R78), the invariants
of 10 R36 and R37, and shapes of a step. A safe run is one whose every state meets `State.Inv`. -/

namespace Sys2Proof.Machine

/-! ### The selection conditions of 30 R78 -/

/-- `L = buf[3] * 256 + buf[4]`, as a number (20 R41). -/
def headerLen (buf : List Byte) : Nat := (peek buf 3).toNat * 256 + (peek buf 4).toNat

/-- The buffer opens with the sync pair. -/
def opensWithSync (p : Params) (buf : List Byte) : Prop := buf.take 2 = [p.sync0, p.sync1]

/-- The condition under which 30 R78 selects an operation in a state: for a framer row, on the slot's state and
buffer; for a datagram, on `RUNNING` and `BOUND`; for DELIVER, on the queue. A host access and reset need none of
the state, but for the number of slots. -/
def SelectedIn (s : State) : Instr → Prop
  | .fWaitSync i _ => i < s.nPorts ∧ (s.slot i).st = .seeking ∧ (s.slot i).buf.length < 2
  | .fSync i _ => i < s.nPorts ∧ (s.slot i).st = .seeking ∧ opensWithSync s.par (s.slot i).buf
  | .fDrop i _ =>
    i < s.nPorts ∧ (s.slot i).st = .seeking ∧ 2 ≤ (s.slot i).buf.length ∧ ¬opensWithSync s.par (s.slot i).buf
  | .fWaitHdr i _ => i < s.nPorts ∧ (s.slot i).st = .haveHeader ∧ (s.slot i).buf.length < 5
  | .fLenOvf i _ =>
    i < s.nPorts ∧ (s.slot i).st = .haveHeader ∧ 5 ≤ (s.slot i).buf.length
      ∧ s.par.maxLen.toNat < headerLen (s.slot i).buf
  | .fWaitBody i _ =>
    i < s.nPorts ∧ (s.slot i).st = .haveHeader ∧ 5 ≤ (s.slot i).buf.length
      ∧ headerLen (s.slot i).buf ≤ s.par.maxLen.toNat ∧ (s.slot i).buf.length < 8 + headerLen (s.slot i).buf
  | .fReady i _ =>
    i < s.nPorts ∧ (s.slot i).st = .haveHeader ∧ 5 ≤ (s.slot i).buf.length
      ∧ headerLen (s.slot i).buf ≤ s.par.maxLen.toNat ∧ 8 + headerLen (s.slot i).buf ≤ (s.slot i).buf.length
  | .fEmit i _ => i < s.nPorts ∧ (s.slot i).st = .haveFrame ∧ rejects s.par s.ctrl (s.slot i).buf = false
  | .fDiscard i _ => i < s.nPorts ∧ (s.slot i).st = .haveFrame ∧ rejects s.par s.ctrl (s.slot i).buf = true
  | .fResume i _ => i < s.nPorts ∧ (s.slot i).st = .yielded
  | .dgramRouted port _ _ =>
    s.status.running = true ∧ ∃ i b, i < s.nPorts ∧ (s.slot i).bound = some b ∧ b.port = port
  | .dgramUnrouted port _ _ =>
    s.status.running = false ∨ ∀ i b, i < s.nPorts → (s.slot i).bound = some b → b.port ≠ port
  | .csrReserved off _ => isReserved s.nPorts off = true
  | .csrMisaligned off width _ => isMisaligned off width = true
  | .deliver i => i < s.nPorts ∧ (s.slot i).outq ≠ []
  | _ => True

/-- A stimulus as the block takes it: its timestamp cut to the `TS_W` bits of the interface (log 15). -/
def cutStamp (s : State) : Stimulus → Stimulus
  | .dgram port data ts => .dgram port data (s.stamp ts)
  | .framer i ts => .framer i (s.stamp ts)
  | x => x

/-! ### Shapes of a step -/

/-- The host's word read at offset `off`, wherever the window lies, is operation `i`, and `i` answers `Ok(d)` and
changes nothing else. -/
def AnswersRead (s : State) (off : Nat) (i : Instr) (d : Word) : Prop :=
  (∀ base, s.select (memRead base (base + off) 4) = .op i) ∧ exec i s = .next { s with out := .readOk d }

/-- The host's word write of `v` at offset `off`, wherever the window lies, is operation `i`, and `i` answers `Ok` and
leaves the state `t`. -/
def AnswersWrite (s : State) (off : Nat) (v : Word) (i : Instr) (t : State) : Prop :=
  (∀ base, s.select (memWrite base (base + off) 4 v) = .op i) ∧ exec i s = .next { t with out := .writeOk }

/-- `s` with slot `i` replaced, its events appended to the slot's queue, and nothing on the interfaces. -/
def State.afterFramer (s : State) (i : Nat) (f : Slot) (evs : List Event) : State :=
  { s with slots := s.slots.set i { f with outq := f.outq ++ evs }, out := .quiet }

/-- Slot `i` cannot be bound at attempt `a`, and `cause` is the lowest number that says why (42 R126). The platform's
answer is the OPEN draw's, but for a pair whose answer the state gives (log 6). -/
def State.CannotBind (s : State) (a i : Nat) (cause : BitVec 2) : Prop :=
  let c := (s.slot i).portCfg
  let dup := ∃ j, j < i ∧ cfgEn (s.slot j).portCfg = true ∧ cfgPort (s.slot j).portCfg = cfgPort c
  i < s.nPorts ∧ cfgEn c = true
    ∧ ((cfgPort c = 0 ∧ cause = 1)
      ∨ (cfgPort c ≠ 0 ∧ dup ∧ cause = 2)
      ∨ (cfgPort c ≠ 0 ∧ ¬dup ∧ (s.bindAnswers.lookup (a, cfgPort c)).getD (Config.bindRefused a (cfgPort c)) = true
        ∧ cause = 3))

/-! ### Framers -/

/-- Between steps a framer is in one of these states (10 R37, 41 R108). -/
def Slot.Quiet (p : Params) (f : Slot) : Prop :=
  (f.st = .seeking ∧ f.buf.length ≤ 1)
    ∨ (f.st = .haveHeader ∧ opensWithSync p f.buf
      ∧ (f.buf.length < 5 ∨ (headerLen f.buf ≤ p.maxLen.toNat ∧ f.buf.length < 8 + headerLen f.buf)))

/-- In HaveFrame the whole frame is present: F_READY, the only way into it, checks so (41 R97, 40 R84). -/
def Slot.FrameComplete (f : Slot) : Prop := f.st = .haveFrame → 8 + headerLen f.buf ≤ f.buf.length

/-- An event with its timestamp set to zero. -/
def Event.eraseTs : Event → Event
  | .msg m => .msg { m with ts := 0 }
  | .warn w => .warn { w with ts := 0 }

/-- A slot with every timestamp in its queue set to zero: what 41 R107 compares. -/
def Slot.eraseTs (f : Slot) : Slot := { f with outq := f.outq.map Event.eraseTs }

/-- Feed a sequence of datagrams, each with its timestamp, to one framer. -/
def feedAll (p : Params) (ctrl : Word) (i : Nat) (ds : List (Nat × List Byte)) (f : Slot) : Slot :=
  ds.foldl (fun g d => feed p ctrl i d.1 d.2 g) f

/-- The source's own feed (41 R105): each datagram appended whole, then one run to quiescence. -/
def feedWhole (p : Params) (ctrl : Word) (i : Nat) (ds : List (Nat × List Byte)) (f : Slot) : Slot :=
  ds.foldl (fun g d => runToQuiescence p ctrl i d.1 { g with buf := g.buf ++ d.2 }) f

/-- How many framer steps `runFramer` takes before it waits. -/
def runCost (p : Params) (ctrl : Word) (i ts : Nat) : Nat → Slot → Nat
  | 0, _ => 0
  | k + 1, f =>
    match framerStep p ctrl i ts f with
    | .wait => 0
    | .next f' evs => 1 + runCost p ctrl i ts k (f'.emit evs)

/-- How many framer steps the feed of `data` takes. -/
def feedCost (p : Params) (ctrl : Word) (i ts : Nat) : List Byte → Slot → Nat
  | [], _ => 0
  | b :: rest, f =>
    runCost p ctrl i ts (mu (f.append b) + 1) (f.append b)
      + feedCost p ctrl i ts rest (runToQuiescence p ctrl i ts (f.append b))

/-- The event is a `Msg`. -/
def Event.isMsg : Event → Bool
  | .msg _ => true
  | .warn _ => false

/-- The event is a warning with this code. -/
def Event.hasCode (c : WarnCode) : Event → Bool
  | .msg _ => false
  | .warn w => w.code == c

/-! ### The invariant -/

/-- An event that slot `i` may hold: tagged with the slot, a timestamp of `TS_W` bits, a payload of the declared
length and a truthful `csum_ok` (30 R69). -/
def Event.Ok (p : Params) (i : Nat) : Event → Prop
  | .msg m =>
    m.slot = slotBits i ∧ m.ts < 2 ^ p.tsW ∧ m.payload.length = m.length.toNat ∧ m.csumOk = (m.csumCalc == m.csumRx)
  | .warn w => w.slot = slotBits i ∧ w.ts < 2 ^ p.tsW

/-- What holds of slot `i` between steps: a quiescent framer, empty while unbound (10 R37), reserved bits of
`PORT_CFG` zero (10 R25), and a queue of well-formed events. -/
def Slot.Ok (p : Params) (i : Nat) (f : Slot) : Prop :=
  f.Quiet p ∧ (f.bound = none → f.st = .seeking ∧ f.buf = []) ∧ f.portCfg &&& ~~~portCfgMask = 0
    ∧ ∀ e ∈ f.outq, e.Ok p i

/-- What holds between steps (10 R36, R37, R28, R29): every slot is well, bound ports are distinct and nonzero,
nothing is bound while stopped, the reserved bits of `CTRL` are zero, and a failed START is reported with a cause,
its absence with none. -/
structure State.Inv (s : State) : Prop where
  slotsOk : ∀ i, i < s.nPorts → (s.slot i).Ok s.par i
  portsDistinct : ∀ i j b c, i < s.nPorts → j < s.nPorts → i ≠ j →
    (s.slot i).bound = some b → (s.slot j).bound = some c → b.port ≠ c.port
  portsNonzero : ∀ i b, i < s.nPorts → (s.slot i).bound = some b → b.port ≠ 0
  stoppedUnbound : s.status.running = false → ∀ i, i < s.nPorts → (s.slot i).bound = none
  ctrlReserved : s.ctrl &&& ~~~ctrlMask = 0
  failReported : if s.status.startFail then s.status.failCause ≠ 0
    else s.status.failSlot = 0 ∧ s.status.failCause = 0

end Sys2Proof.Machine
end

