-- ==== Sys2Proof/Certificates/Slice0/Obligations.lean ====
section
/-! DEFINITION. The statements for the provers. Each docstring names the rule of spec/ it formalises. A statement about
every state is about every value of the parameters of 00 R6, since the state carries them (log 3), and about every draw
of the platform, since nothing is known of it (log 6). -/

open Sys2Proof Sys2Proof.Machine

/-! ### Selecting and decoding -/

/-- The next agent's step is taken from the inbox and the operation it selects is executed, in one step; a stimulus
that selects none leaves the block alone, and so does the absence of a stimulus (00 R12; logs 1, 2, 8, 10). -/
def Obligations.StepRunsTheSelectedOperation : Prop :=
  ∀ s : State,
    (s.inbox = [] → step s = .next { s with out := .quiet })
      ∧ ∀ x rest, s.inbox = x :: rest →
        (∀ i, s.select x = .op i → step s = exec i { s with inbox := rest })
          ∧ (s.select x = .rejected .outsideWindow → step s = .next { s with inbox := rest, out := .noResponse })
          ∧ (s.select x = .rejected .noSuchSlot → step s = .next { s with inbox := rest, out := .quiet })
          ∧ (s.select x = .rejected .nothingQueued → step s = .next { s with inbox := rest, out := .quiet })

/-- Encoding an operation and selecting from it gives the operation back, for every well-formed operation whose
condition in 30 R78 holds: no operand is lost. -/
def Obligations.SelectingAnEncodedOperationGivesItBack : Prop :=
  ∀ (s : State) (i : Instr), s.nPorts ≤ 8 → i.wellFormed s.nPorts s.par.tsW = true → SelectedIn s i →
    s.select (encode i) = .op i

/-- The other direction: whatever a stimulus selects is a well-formed operation whose condition in 30 R78 holds, and it
encodes to that stimulus (with its timestamp cut to `TS_W` bits, log 15). -/
def Obligations.ASelectedOperationMeetsItsCondition : Prop :=
  ∀ (s : State) (x : Stimulus) (i : Instr), s.nPorts ≤ 8 → s.select x = .op i →
    i.wellFormed s.nPorts s.par.tsW = true ∧ SelectedIn s i ∧ encode i = cutStamp s x

/-- The ten framer conditions of 30 R78 are disjoint and cover every framer state. -/
def Obligations.ExactlyOneFramerOperationApplies : Prop :=
  ∀ (s : State) (i ts : Nat), i < s.nPorts → ∃! o : FramerOp, SelectedIn s (o.instr i ts)

/-- An operation completes exactly where the table selects it; elsewhere it is refused by its name (log 10). Slot
registers complete for every slot number, since a slot at or above `N_PORTS` reads zero (30 R77). -/
def Obligations.OperationsCompleteExactlyWhereSelected : Prop :=
  ∀ (s : State) (i : Instr),
    (SelectedIn s i → ∃ t, exec i s = .next t)
      ∧ (¬SelectedIn s i → ∃ m, exec i s = .refused (.notSelected m))

/-- Words written out from the encodings of spec/opcode_table.json decode to their rows: a sanity statement. -/
def Obligations.TableWordsDecodeToTheirRows : Prop :=
  decodeTableWord 8 0b00 = some (.fWaitSync 0 0) ∧ decodeTableWord 8 0b01 = some (.fWaitHdr 0 0)
    ∧ decodeTableWord 8 0b10 = some (.fEmit 0 0) ∧ decodeTableWord 8 0b11 = some (.fResume 0 0)
    ∧ decodeTableWord 16 0b0000001000 = some .rdCtrl ∧ decodeTableWord 16 0b0001001100 = some (.rdPortCfg 3)
    ∧ decodeTableWord 16 0b0110011100 = some (.rdDiscarded 2) ∧ decodeTableWord 16 0b0100100100 = some (.rdBufLevel 0)
    ∧ decodeTableWord 48 (0b10 * 2 ^ 16 + 0b0000001100) = some (.cmdStop 0)
    ∧ decodeTableWord 16 0b0000011000 = some (.csrReserved 0x018 none)

/-! ### CSR accesses -/

/-- `PARAMS` (43 R142): `zext_32({N_PORTS[3:0], MAX_LEN[15:0]})`; a write is ignored. -/
def Obligations.ParamsRegisterReportsParameters : Prop :=
  ∀ (s : State) (v : Word),
    (∃ d : Word, d.toNat = (s.nPorts % 16) * 2 ^ 16 + s.par.maxLen.toNat ∧ AnswersRead s 0x000 .rdParams d)
      ∧ AnswersWrite s 0x000 v (.wrParams v) s

/-- `PROTO` (43 R143): `{TRAILER1, TRAILER0, SYNC1, SYNC0}`; a write is ignored. -/
def Obligations.ProtoRegisterReportsProtocolBytes : Prop :=
  ∀ (s : State) (v : Word),
    (∃ d : Word, d.extractLsb' 0 8 = s.par.sync0 ∧ d.extractLsb' 8 8 = s.par.sync1
        ∧ d.extractLsb' 16 8 = s.par.trailer0 ∧ d.extractLsb' 24 8 = s.par.trailer1
        ∧ AnswersRead s 0x004 .rdProto d)
      ∧ AnswersWrite s 0x004 v (.wrProto v) s

/-- `CTRL` (43 R144, 30 R72): a read returns the two gates, a write stores the two defined bits and changes nothing
else, while running or stopped. -/
def Obligations.CtrlRegisterHoldsTheGates : Prop :=
  ∀ (s : State) (v : Word),
    (∃ d : Word, d.toNat = 2 * (gateTrailer s.ctrl).toNat + (gateCsum s.ctrl).toNat
        ∧ AnswersRead s 0x008 .rdCtrl d)
      ∧ AnswersWrite s 0x008 v (.wrCtrl v) { s with ctrl := v &&& 0x00000003 }

/-- `CMD` (43 R145): it reads zero; `v[1:0]` selects the command and `v[31:2]` is ignored; 0 has no effect and 3 sets
`CMD_ERR` and nothing else. START and STOP have statements of their own. -/
def Obligations.CmdRegisterDecodesCommands : Prop :=
  ∀ (s : State) (v : Word),
    AnswersRead s 0x00C .rdCmd 0
      ∧ (v.toNat % 4 = 0 → AnswersWrite s 0x00C v (.cmdNone (v.extractLsb' 2 30)) s)
      ∧ (v.toNat % 4 = 1 → ∀ base, s.select (memWrite base (base + 0x00C) 4 v) = .op (.cmdStart (v.extractLsb' 2 30)))
      ∧ (v.toNat % 4 = 2 → ∀ base, s.select (memWrite base (base + 0x00C) 4 v) = .op (.cmdStop (v.extractLsb' 2 30)))
      ∧ (v.toNat % 4 = 3 → AnswersWrite s 0x00C v (.cmdIllegal (v.extractLsb' 2 30))
          { s with status := { s.status with cmdErr := true } })

/-- `STATUS` (43 R146, 30 R74): a read returns the fields at their bits; a write of 1 to bit 1 clears `START_FAIL`,
`FAIL_SLOT` and `FAIL_CAUSE`, of 1 to bit 2 `CMD_ERR`; every other bit is ignored. -/
def Obligations.StatusRegisterReportsAndClears : Prop :=
  ∀ (s : State) (v : Word),
    (∃ d : Word, d.toNat = s.status.running.toNat + 2 * s.status.startFail.toNat + 4 * s.status.cmdErr.toNat
          + 2 ^ 8 * s.status.failSlot.toNat + 2 ^ 12 * s.status.failCause.toNat
        ∧ AnswersRead s 0x010 .rdStatus d)
      ∧ AnswersWrite s 0x010 v (.wrStatus v) { s with
          status := {
            running := s.status.running
            startFail := s.status.startFail && !v.getLsbD 1
            cmdErr := s.status.cmdErr && !v.getLsbD 2
            failSlot := if v.getLsbD 1 then 0 else s.status.failSlot
            failCause := if v.getLsbD 1 then 0 else s.status.failCause } }

/-- `UNROUTED` (43 R147): a read returns the counter and does not clear it; a write is ignored; a successful START
clears it. -/
def Obligations.UnroutedRegisterReportsTheCounter : Prop :=
  ∀ (s : State) (v : Word),
    AnswersRead s 0x014 .rdUnrouted s.unrouted ∧ AnswersWrite s 0x014 v (.wrUnrouted v) s
      ∧ ∀ hi t, s.status.running = false → exec (.cmdStart hi) s = .next t → t.status.running = true →
          t.unrouted = 0

/-- `PORT_CFG[i]` (43 R148): a write stores `v & 0x8003_FFFF` and changes nothing else; a read returns what was
written. Where the reserved bits are zero, as `State.Inv` says, a read returns the stored value. -/
def Obligations.PortCfgRegisterHoldsWhatWasWritten : Prop :=
  ∀ (s : State) (i : Nat) (v : Word), i < s.nPorts → i < 8 →
    AnswersRead s (0x040 + 4 * i) (.rdPortCfg i) ((s.slot i).portCfg &&& 0x8003FFFF)
      ∧ ((s.slot i).portCfg &&& ~~~0x8003FFFF#32 = 0 →
          (s.slot i).portCfg &&& 0x8003FFFF = (s.slot i).portCfg)
      ∧ AnswersWrite s (0x040 + 4 * i) v (.wrPortCfg i v)
          { s with slots := s.slots.set i { s.slot i with portCfg := v &&& 0x8003FFFF } }
      ∧ ∀ t, exec (.wrPortCfg i v) s = .next t →
          exec (.rdPortCfg i) t = .next { t with out := .readOk (v &&& 0x8003FFFF) }

/-- The per-slot counters (43 R149): a read returns the counter and changes nothing. -/
def Obligations.CounterReadsReturnTheCounters : Prop :=
  ∀ (s : State) (i : Nat), i < s.nPorts → i < 8 →
    AnswersRead s (0x100 + 0x40 * i + 0x00) (.rdRxDgrams i) (s.slot i).rxDgrams
      ∧ AnswersRead s (0x100 + 0x40 * i + 0x04) (.rdRxBytes i) (s.slot i).rxBytes
      ∧ AnswersRead s (0x100 + 0x40 * i + 0x08) (.rdFramesOk i) (s.slot i).framesOk
      ∧ AnswersRead s (0x100 + 0x40 * i + 0x0C) (.rdResyncDrops i) (s.slot i).resyncDrops
      ∧ AnswersRead s (0x100 + 0x40 * i + 0x10) (.rdLenOvf i) (s.slot i).lenOvf
      ∧ AnswersRead s (0x100 + 0x40 * i + 0x14) (.rdTrailerErr i) (s.slot i).trailerErr
      ∧ AnswersRead s (0x100 + 0x40 * i + 0x18) (.rdCsumErr i) (s.slot i).csumErr
      ∧ AnswersRead s (0x100 + 0x40 * i + 0x1C) (.rdDiscarded i) (s.slot i).discarded

/-- `PSTATE[i]` (43 R150): the framer state in the codes of 10 R22, and the binding, its role in the codes of 10 R26, or
zero; a write is ignored. Between steps, that is in a
state that meets the invariant, the state field is 0 or 1. -/
def Obligations.PstateReportsStateAndBinding : Prop :=
  ∀ (s : State) (i : Nat), i < s.nPorts → i < 8 →
    ∃ d : Word, AnswersRead s (0x100 + 0x40 * i + 0x20) (.rdPstate i) d
      ∧ ((s.slot i).st = .seeking → d.toNat % 4 = 0) ∧ ((s.slot i).st = .haveHeader → d.toNat % 4 = 1)
      ∧ ((s.slot i).st = .haveFrame → d.toNat % 4 = 2) ∧ ((s.slot i).st = .yielded → d.toNat % 4 = 3)
      ∧ ((s.slot i).bound = none → d.toNat / 4 = 0)
      ∧ (∀ b, (s.slot i).bound = some b →
          ∃ r, d.toNat / 4 = 1 + 4 * r + 2 ^ 14 * b.port.toNat
            ∧ (b.role = .commandResponse → r = 0) ∧ (b.role = .telemetry → r = 1)
            ∧ (b.role = .lidar → r = 2) ∧ (b.role = .planning → r = 3))
      ∧ (s.Inv → d.toNat % 4 ≤ 1)
      ∧ ∀ v, AnswersWrite s (0x100 + 0x40 * i + 0x20) v (.wrPstate i v) s

/-- `BUF_LEVEL[i]` (43 R151): between steps the number of bytes buffered, at most `7 + MAX_LEN`; a write is ignored. In
a state that no run reaches the 17 bits of 30 R76 hold the count modulo 2^17 (log 21). -/
def Obligations.BufLevelReportsBufferedBytes : Prop :=
  ∀ (s : State) (i : Nat), i < s.nPorts → i < 8 →
    ∃ d : Word, AnswersRead s (0x100 + 0x40 * i + 0x24) (.rdBufLevel i) d
      ∧ (s.Inv → d.toNat = (s.slot i).buf.length ∧ d.toNat ≤ 7 + s.par.maxLen.toNat)
      ∧ d.toNat = (s.slot i).buf.length % 2 ^ 17
      ∧ ∀ v, AnswersWrite s (0x100 + 0x40 * i + 0x24) v (.wrBufLevel i v) s

/-- Writes to the read-only per-slot registers (43 R154) respond `Ok` and change nothing; `PARAMS`, `PROTO` and
`UNROUTED` as well. -/
def Obligations.ReadOnlyRegisterWritesChangeNothing : Prop :=
  ∀ (s : State) (i : Nat) (v : Word), i < s.nPorts → i < 8 →
    AnswersWrite s 0x000 v (.wrParams v) s ∧ AnswersWrite s 0x004 v (.wrProto v) s
      ∧ AnswersWrite s 0x014 v (.wrUnrouted v) s
      ∧ AnswersWrite s (0x100 + 0x40 * i + 0x00) v (.wrRxDgrams i v) s
      ∧ AnswersWrite s (0x100 + 0x40 * i + 0x04) v (.wrRxBytes i v) s
      ∧ AnswersWrite s (0x100 + 0x40 * i + 0x08) v (.wrFramesOk i v) s
      ∧ AnswersWrite s (0x100 + 0x40 * i + 0x0C) v (.wrResyncDrops i v) s
      ∧ AnswersWrite s (0x100 + 0x40 * i + 0x10) v (.wrLenOvf i v) s
      ∧ AnswersWrite s (0x100 + 0x40 * i + 0x14) v (.wrTrailerErr i v) s
      ∧ AnswersWrite s (0x100 + 0x40 * i + 0x18) v (.wrCsumErr i v) s
      ∧ AnswersWrite s (0x100 + 0x40 * i + 0x1C) v (.wrDiscarded i v) s
      ∧ AnswersWrite s (0x100 + 0x40 * i + 0x20) v (.wrPstate i v) s
      ∧ AnswersWrite s (0x100 + 0x40 * i + 0x24) v (.wrBufLevel i v) s

/-- A misaligned or non-word access (43 R152, 60 R170) answers `BusErr` and changes no state, writes to `CMD` and
`STATUS` included. That the window is tested before the alignment is the model's reading (log 7), and so is that the
alignment tested is the offset's (log 5). -/
def Obligations.MisalignedAccessesAnswerBusErr : Prop :=
  ∀ (s : State) (base off width : Nat) (v : Word), off < 0x300 → (off % 4 ≠ 0 ∨ width ≠ 4) →
    s.select (memRead base (base + off) width) = .op (.csrMisaligned off width none)
      ∧ s.select (memWrite base (base + off) width v) = .op (.csrMisaligned off width (some v))
      ∧ ∀ wr, exec (.csrMisaligned off width wr) s = .next { s with out := .busErr }

/-- Aligned word accesses to the reserved offsets of 30 R70 and R77, those of the slots at and above `N_PORTS`
included, read zero, ignore a write and respond `Ok`; at and above 0x300 the block does not respond (43 R153), which the
model writes as the output `noResponse` (log 8). That a misaligned or non-word access at or above 0x300 gets no response
either, and no `BusErr`, is the model's reading (log 7). -/
def Obligations.ReservedOffsetsReadZeroIgnoreWrites : Prop :=
  ∀ (s : State) (off : Nat) (v : Word), s.nPorts ≤ 8 →
    (isReserved s.nPorts off = true →
      AnswersRead s off (.csrReserved off none) 0 ∧ AnswersWrite s off v (.csrReserved off (some v)) s)
      ∧ (0x300 ≤ off → ∀ base width rest,
          (s.inbox = memRead base (base + off) width :: rest →
            step s = .next { s with inbox := rest, out := .noResponse })
          ∧ (s.inbox = memWrite base (base + off) width v :: rest →
            step s = .next { s with inbox := rest, out := .noResponse }))

/-- No read has a side effect (20 R47), at any address and of any width: the step changes the inbox and the response
only. -/
def Obligations.HostReadsChangeNoState : Prop :=
  ∀ (s : State) (rel : Int) (width : Nat) (rest : List Stimulus), s.inbox = .read rel width :: rest →
    ∃ o, step s = .next { s with inbox := rest, out := o }

/-- A host write elsewhere than to `CMD` leaves every binding, framer, counter and queue, and `RUNNING`, as they are:
writing the port table never changes routing by itself (20 R55). -/
def Obligations.HostWritesElsewhereThanCmdKeepRoutingAndFramers : Prop :=
  ∀ (s t : State) (rel : Int) (width : Nat) (v : Word) (rest : List Stimulus),
    s.inbox = .write rel width v :: rest → rel ≠ 0x00C → step s = .next t →
    t.status.running = s.status.running ∧ t.unrouted = s.unrouted ∧ t.attempt = s.attempt ∧ t.nPorts = s.nPorts
      ∧ ∀ i, { t.slot i with portCfg := 0 } = { s.slot i with portCfg := 0 }

/-! ### The frame codec -/

/-- `Csum` (40 R80) is the XOR of every byte of the encoded frame from `SYNC0` through the last payload byte. -/
def Obligations.ChecksumCoversHeaderAndPayload : Prop :=
  ∀ (p : Params) (fc : Byte) (payload frame : List Byte), encodeFrame p fc payload = some frame →
    frame.length = 8 + payload.length
      ∧ xorAll (frame.take (5 + payload.length)) = csum p fc (BitVec.ofNat 16 payload.length) payload
      ∧ frame[5 + payload.length]? = some (csum p fc (BitVec.ofNat 16 payload.length) payload)

/-- The round-trip law (40 R85), whatever follows the frame; a payload above `MAX_LEN` decodes as `LengthOverflow`. -/
def Obligations.DecodingAnEncodedFrameGivesItBack : Prop :=
  ∀ (p : Params) (fc : Byte) (payload rest : List Byte), payload.length ≤ 65535 →
    ∃ frame, encodeFrame p fc payload = some frame
      ∧ decodeFrame p (frame ++ rest) =
          if payload.length ≤ p.maxLen.toNat then
            .frame {
              funcCode := fc
              length := BitVec.ofNat 16 payload.length
              payload := payload
              csumRx := csum p fc (BitVec.ofNat 16 payload.length) payload
              csumCalc := csum p fc (BitVec.ofNat 16 payload.length) payload
              csumOk := true
              trailerOk := true
              consumed := 8 + payload.length }
          else .lengthOverflow

/-- What the checksum detects (40 R81): the check holds exactly where the XOR of the covered bytes and the checksum
byte together is zero; a change of any one of those bytes makes it fail. -/
def Obligations.ChecksumDetectsAnySingleByteChange : Prop :=
  ∀ (image : List Byte) (c b : Byte) (k : Nat),
    (xorAll image = c ↔ xorAll (image ++ [c]) = 0)
      ∧ (xorAll (image ++ [c]) = 0 → k ≤ image.length → (image ++ [c])[k]? ≠ some b →
          xorAll ((image ++ [c]).set k b) ≠ 0)

/-- Where F_READY has put the framer in HaveFrame, `DecodeFrame` of its buffer is a `Frame` result, the one the
HaveFrame evaluation uses (40 R84). -/
def Obligations.DecodeFrameNeverFailsInHaveFrame : Prop :=
  ∀ (p : Params) (buf : List Byte), opensWithSync p buf → headerLen buf ≤ p.maxLen.toNat →
    8 + headerLen buf ≤ buf.length → decodeFrame p buf = .frame (frameFields p buf)

/-! ### The framer rows -/

/-- F_WAIT_SYNC, F_WAIT_HDR and F_WAIT_BODY wait: they change nothing (41 R91, R94, R96). -/
def Obligations.WaitingOperationsChangeNothing : Prop :=
  ∀ (s : State) (i ts : Nat), i < s.nPorts →
    ((s.slot i).st = .seeking → (s.slot i).buf.length < 2 → exec (.fWaitSync i ts) s = .next { s with out := .quiet })
      ∧ ((s.slot i).st = .haveHeader → (s.slot i).buf.length < 5 →
          exec (.fWaitHdr i ts) s = .next { s with out := .quiet })
      ∧ (∀ b0 b1 fc hi lo rest, (s.slot i).st = .haveHeader → (s.slot i).buf = b0 :: b1 :: fc :: hi :: lo :: rest →
          hi.toNat * 256 + lo.toNat ≤ s.par.maxLen.toNat →
          (s.slot i).buf.length < 8 + (hi.toNat * 256 + lo.toNat) →
          exec (.fWaitBody i ts) s = .next { s with out := .quiet })

/-- F_SYNC (41 R92): the sync pair at the head moves the framer to HaveHeader; no byte is taken. -/
def Obligations.SyncPairOpensAHeader : Prop :=
  ∀ (s : State) (i ts : Nat) (rest : List Byte), i < s.nPorts → (s.slot i).st = .seeking →
    (s.slot i).buf = s.par.sync0 :: s.par.sync1 :: rest →
    exec (.fSync i ts) s = .next (s.afterFramer i { s.slot i with st := .haveHeader } [])

/-- F_DROP (41 R93): exactly one byte is dropped and counted; no event. -/
def Obligations.ResyncDropsExactlyOneByte : Prop :=
  ∀ (s : State) (i ts : Nat) (b0 b1 : Byte) (rest : List Byte), i < s.nPorts → (s.slot i).st = .seeking →
    (s.slot i).buf = b0 :: b1 :: rest → (b0, b1) ≠ (s.par.sync0, s.par.sync1) →
    exec (.fDrop i ts) s = .next (s.afterFramer i
      { s.slot i with buf := b1 :: rest, resyncDrops := (s.slot i).resyncDrops + 1 } [])

/-- F_LEN_OVF (41 R95): a declared length above `MAX_LEN` is warned of and counted, one byte is dropped, and the framer
seeks again. -/
def Obligations.LengthOverflowWarnsAndDropsOneByte : Prop :=
  ∀ (s : State) (i ts : Nat) (b0 b1 fc hi lo : Byte) (rest : List Byte), i < s.nPorts →
    (s.slot i).st = .haveHeader → (s.slot i).buf = b0 :: b1 :: fc :: hi :: lo :: rest →
    s.par.maxLen.toNat < hi.toNat * 256 + lo.toNat →
    exec (.fLenOvf i ts) s = .next (s.afterFramer i
      { s.slot i with
        st := .seeking
        buf := b1 :: fc :: hi :: lo :: rest
        lenOvf := (s.slot i).lenOvf + 1 }
      [.warn {
        slot := slotBits i
        code := .lenOverflow
        funcCode := fc
        length := BitVec.ofNat 16 (hi.toNat * 256 + lo.toNat)
        ts := ts }])

/-- F_READY (41 R97) and F_RESUME (41 R101): the whole frame is present, or the framer has yielded; the state moves on
and no byte is taken. -/
def Obligations.ReadyAndResumeMoveTheStateOnly : Prop :=
  ∀ (s : State) (i ts : Nat), i < s.nPorts →
    (∀ b0 b1 fc hi lo rest, (s.slot i).st = .haveHeader → (s.slot i).buf = b0 :: b1 :: fc :: hi :: lo :: rest →
      hi.toNat * 256 + lo.toNat ≤ s.par.maxLen.toNat → 8 + (hi.toNat * 256 + lo.toNat) ≤ (s.slot i).buf.length →
      exec (.fReady i ts) s = .next (s.afterFramer i { s.slot i with st := .haveFrame } []))
      ∧ ((s.slot i).st = .yielded →
        exec (.fResume i ts) s = .next (s.afterFramer i { s.slot i with st := .seeking } []))

/-- F_EMIT with its evaluation (41 R98, R99): a complete frame that no enabled gate rejects is counted, warned of where
a flag is false (trailer first) and delivered whole with its flags, the port and role the slot is bound to, and its
`8 + L` bytes are consumed. The port and role of an unbound slot are left open (log 13). -/
def Obligations.EmittedFrameIsDeliveredWhole : Prop :=
  ∀ (s : State) (i ts : Nat) (b0 b1 fc hi lo c t0 t1 : Byte) (payload rest : List Byte),
    let f := s.slot i
    let computed := xorAll (b0 :: b1 :: fc :: hi :: lo :: payload)
    let len := BitVec.ofNat 16 (hi.toNat * 256 + lo.toNat)
    let cOk := computed == c
    let tOk := t0 == s.par.trailer0 && t1 == s.par.trailer1
    let warn := fun code => Event.warn { slot := slotBits i, code := code, funcCode := fc, length := len, ts := ts }
    i < s.nPorts → f.st = .haveFrame → payload.length = hi.toNat * 256 + lo.toNat →
    f.buf = b0 :: b1 :: fc :: hi :: lo :: (payload ++ c :: t0 :: t1 :: rest) →
    (s.ctrl.getLsbD 0 = true → cOk = true) → (s.ctrl.getLsbD 1 = true → tOk = true) →
    ∃ port role, (∀ b, f.bound = some b → b.port = port ∧ b.role = role)
      ∧ exec (.fEmit i ts) s = .next (s.afterFramer i
        { f with
          st := .yielded
          buf := rest
          framesOk := f.framesOk + 1
          trailerErr := if tOk then f.trailerErr else f.trailerErr + 1
          csumErr := if cOk then f.csumErr else f.csumErr + 1 }
        ((if tOk then [] else [warn .trailerMismatch]) ++ (if cOk then [] else [warn .csumMismatch]) ++
          [.msg {
            slot := slotBits i
            udpPort := port
            role := role
            funcCode := fc
            length := len
            payload := payload
            csumRx := c
            csumCalc := computed
            csumOk := cOk
            trailerOk := tOk
            ts := ts }]))

/-- F_DISCARD with its evaluation (41 R98, R100): a complete frame that an enabled gate rejects is warned of and
counted, one byte is dropped, and the framer seeks again; there is no `Msg`. -/
def Obligations.RejectedFrameDropsOneByte : Prop :=
  ∀ (s : State) (i ts : Nat) (b0 b1 fc hi lo c t0 t1 : Byte) (payload rest : List Byte),
    let f := s.slot i
    let len := BitVec.ofNat 16 (hi.toNat * 256 + lo.toNat)
    let cOk := xorAll (b0 :: b1 :: fc :: hi :: lo :: payload) == c
    let tOk := t0 == s.par.trailer0 && t1 == s.par.trailer1
    let warn := fun code => Event.warn { slot := slotBits i, code := code, funcCode := fc, length := len, ts := ts }
    i < s.nPorts → f.st = .haveFrame → payload.length = hi.toNat * 256 + lo.toNat →
    f.buf = b0 :: b1 :: fc :: hi :: lo :: (payload ++ c :: t0 :: t1 :: rest) →
    ((s.ctrl.getLsbD 0 = true ∧ cOk = false) ∨ (s.ctrl.getLsbD 1 = true ∧ tOk = false)) →
    exec (.fDiscard i ts) s = .next (s.afterFramer i
      { f with
        st := .seeking
        buf := b1 :: fc :: hi :: lo :: (payload ++ c :: t0 :: t1 :: rest)
        discarded := f.discarded + 1
        trailerErr := if tOk then f.trailerErr else f.trailerErr + 1
        csumErr := if cOk then f.csumErr else f.csumErr + 1 }
      ((if tOk then [] else [warn .trailerMismatch]) ++ (if cOk then [] else [warn .csumMismatch]) ++
        [warn .frameDiscarded]))

/-- `FramerStep` is the selected framer row (41 R90, R102): executing the row does to the state what `FramerStep` does
to the slot, and `Wait` changes nothing. -/
def Obligations.FramerStepIsTheSelectedRow : Prop :=
  ∀ (s : State) (o : FramerOp) (i ts : Nat), SelectedIn s (o.instr i ts) →
    exec (o.instr i ts) s =
      match framerStep s.par s.ctrl i ts (s.slot i) with
      | .wait => .next { s with out := .quiet }
      | .next f evs => .next (s.afterFramer i f evs)

/-! ### Runs and feeds -/

/-- The termination measure (41 R103): every framer step that does not wait lowers `mu`; that a framer in HaveFrame
holds a whole frame is kept by every step and by every appended byte. -/
def Obligations.EveryFramerStepLowersMu : Prop :=
  ∀ (p : Params) (ctrl : Word) (i ts : Nat) (f : Slot), f.FrameComplete →
    (∀ b, (f.append b).FrameComplete)
      ∧ ∀ f' evs, framerStep p ctrl i ts f = .next f' evs → mu f' < mu f ∧ f'.FrameComplete

/-- The quiescent states (41 R108): `FramerStep` waits exactly in them, and then at most `7 + MAX_LEN` bytes are
buffered. -/
def Obligations.FramerWaitsExactlyWhenQuiescent : Prop :=
  ∀ (p : Params) (ctrl : Word) (i ts : Nat) (f : Slot),
    (framerStep p ctrl i ts f = .wait ↔
      (f.st = .seeking ∧ f.buf.length ≤ 1)
        ∨ (f.st = .haveHeader ∧ f.buf.length < 5)
        ∨ (f.st = .haveHeader ∧ headerLen f.buf ≤ p.maxLen.toNat ∧ f.buf.length < 8 + headerLen f.buf))
      ∧ (framerStep p ctrl i ts f = .wait → f.buf.length ≤ 7 + p.maxLen.toNat)

/-- `RunToQuiescence` (41 R104) ends in a state in which the framer waits, from every state, so the fuel bound of
41 R103 is never what ends it; and what it emits is appended to the queue. -/
def Obligations.RunToQuiescenceEndsWaiting : Prop :=
  ∀ (p : Params) (ctrl : Word) (i ts : Nat) (f : Slot),
    framerStep p ctrl i ts (runToQuiescence p ctrl i ts f) = .wait
      ∧ ∃ evs, (runToQuiescence p ctrl i ts f).outq = f.outq ++ evs

/-- Feeding keeps the framer quiescent (10 R37) and the buffer within `BUF_CAP`: at most `7 + MAX_LEN` bytes between
bytes, at most `8 + MAX_LEN` after each `Append` (41 R106). -/
def Obligations.FeedKeepsTheBufferBounded : Prop :=
  ∀ (p : Params) (ctrl : Word) (i ts : Nat) (data : List Byte) (f : Slot), f.Quiet p →
    (feed p ctrl i ts data f).Quiet p
      ∧ ∀ k b, data[k]? = some b →
        (feed p ctrl i ts (data.take k) f).buf.length ≤ 7 + p.maxLen.toNat
          ∧ ((feed p ctrl i ts (data.take k) f).append b).buf.length ≤ 8 + p.maxLen.toNat

/-- Split independence (41 R107): however one byte stream is divided into datagrams, and whether its bytes enter one by
one or a datagram at a time, the framer ends in the same state with the same events; timestamps alone depend on the
division, and not on the way of feeding (92 D30). -/
def Obligations.FramingIsIndependentOfTheSplit : Prop :=
  ∀ (p : Params) (ctrl : Word) (i : Nat) (ds es : List (Nat × List Byte)) (f : Slot), f.Quiet p →
    feedWhole p ctrl i ds f = feedAll p ctrl i ds f
      ∧ ((ds.map Prod.snd).flatten = (es.map Prod.snd).flatten →
          (feedAll p ctrl i ds f).eraseTs = (feedAll p ctrl i es f).eraseTs)

/-- The resynchronisation property with its condition (41 R113): garbage inside which no sync pair starts, followed by
a valid frame, in any division into datagrams, gives exactly the frame's `Msg` (its fields, both checksums and both flags,
tagged with the slot and its binding, 41 R99), counts each garbage byte as a drop, and leaves the framer empty and
Seeking. The port and role of an unbound slot are left open (log 13). -/
def Obligations.GarbageWithoutSyncPairThenFrameGivesOneMsg : Prop :=
  ∀ (p : Params) (ctrl : Word) (i : Nat) (ds : List (Nat × List Byte)) (f : Slot) (garbage frame payload : List Byte)
    (fc : Byte),
    f.st = .seeking → f.buf = [] → payload.length ≤ p.maxLen.toNat → encodeFrame p fc payload = some frame →
    (ds.map Prod.snd).flatten = garbage ++ frame →
    (∀ k, k < garbage.length →
      ¬((garbage ++ frame)[k]? = some p.sync0 ∧ (garbage ++ frame)[k + 1]? = some p.sync1)) →
    (feedAll p ctrl i ds f).st = .seeking ∧ (feedAll p ctrl i ds f).buf = []
      ∧ (feedAll p ctrl i ds f).resyncDrops = f.resyncDrops + BitVec.ofNat 32 garbage.length
      ∧ ∃ m : Msg, (feedAll p ctrl i ds f).outq = f.outq ++ [.msg m]
        ∧ m.slot = slotBits i ∧ (∀ b, f.bound = some b → m.udpPort = b.port ∧ m.role = b.role)
        ∧ m.funcCode = fc ∧ m.length.toNat = payload.length ∧ m.payload = payload
        ∧ m.csumRx = csum p fc (BitVec.ofNat 16 payload.length) payload
        ∧ m.csumCalc = csum p fc (BitVec.ofNat 16 payload.length) payload
        ∧ m.csumOk = true ∧ m.trailerOk = true

/-- Bounded resynchronisation cost (41 R112): from a fresh framer, at most `5 * (bytes appended) + 3` framer steps. -/
def Obligations.FeedCostIsLinear : Prop :=
  ∀ (p : Params) (ctrl : Word) (i ts : Nat) (data : List Byte) (f : Slot), f.st = .seeking → f.buf = [] →
    feedCost p ctrl i ts data f ≤ 5 * data.length + 3

/-- Each counter counts its own events (10 R24, R30): modulo 2^32, `FRAMES_OK` the `Msg` events of a feed, `LEN_OVF`,
`TRAILER_ERR`, `CSUM_ERR` and `DISCARDED` the warnings with their codes; a feed writes neither receive counter. -/
def Obligations.CountersCountTheirEvents : Prop :=
  ∀ (p : Params) (ctrl : Word) (i ts : Nat) (data : List Byte) (f : Slot),
    ∃ evs, (feed p ctrl i ts data f).outq = f.outq ++ evs
      ∧ (feed p ctrl i ts data f).framesOk = f.framesOk + BitVec.ofNat 32 (evs.countP Event.isMsg)
      ∧ (feed p ctrl i ts data f).lenOvf = f.lenOvf + BitVec.ofNat 32 (evs.countP (Event.hasCode .lenOverflow))
      ∧ (feed p ctrl i ts data f).trailerErr
          = f.trailerErr + BitVec.ofNat 32 (evs.countP (Event.hasCode .trailerMismatch))
      ∧ (feed p ctrl i ts data f).csumErr = f.csumErr + BitVec.ofNat 32 (evs.countP (Event.hasCode .csumMismatch))
      ∧ (feed p ctrl i ts data f).discarded
          = f.discarded + BitVec.ofNat 32 (evs.countP (Event.hasCode .frameDiscarded))
      ∧ (feed p ctrl i ts data f).rxDgrams = f.rxDgrams ∧ (feed p ctrl i ts data f).rxBytes = f.rxBytes

/-- Gating (10 R28, 41 R100): with a gate enabled no `Msg` with that flag false is emitted, and with both disabled no
frame is discarded; every event carries the timestamp of the datagram being fed (41 R110). -/
def Obligations.GatesDecideWhatIsDelivered : Prop :=
  ∀ (p : Params) (ctrl : Word) (i ts : Nat) (data : List Byte) (f : Slot),
    ∃ evs, (feed p ctrl i ts data f).outq = f.outq ++ evs
      ∧ (∀ m, Event.msg m ∈ evs → m.ts = ts ∧ (ctrl.getLsbD 0 = true → m.csumOk = true)
          ∧ (ctrl.getLsbD 1 = true → m.trailerOk = true))
      ∧ ∀ w, Event.warn w ∈ evs → w.ts = ts
          ∧ (w.code = .frameDiscarded → ctrl.getLsbD 0 = true ∨ ctrl.getLsbD 1 = true)

/-! ### Datagrams, START, STOP, delivery -/

/-- A routed datagram (42 R120, R121, R123), on a block whose bound ports are distinct: the slot bound to the port, and
it alone, counts the datagram and its bytes and is fed them; everything else is as before (41 R109). -/
def Obligations.RoutedDatagramFeedsItsSlotOnly : Prop :=
  ∀ (s : State) (i : Nat) (b : Binding) (data : List Byte) (ts : Nat), s.status.running = true →
    (∀ j k c d, j < s.nPorts → k < s.nPorts → j ≠ k → (s.slot j).bound = some c → (s.slot k).bound = some d →
      c.port ≠ d.port) →
    i < s.nPorts → (s.slot i).bound = some b →
    exec (.dgramRouted b.port data ts) s = .next { s with
      slots := s.slots.set i (feed s.par s.ctrl i ts data
        { s.slot i with
          rxDgrams := (s.slot i).rxDgrams + 1
          rxBytes := (s.slot i).rxBytes + BitVec.ofNat 32 data.length })
      out := .quiet }
      ∧ (feed s.par s.ctrl i ts data (s.slot i)).bound = (s.slot i).bound
      ∧ (feed s.par s.ctrl i ts data (s.slot i)).portCfg = (s.slot i).portCfg

/-- An unrouted datagram (42 R122): while stopped, or for a port no slot has bound, `UNROUTED` is incremented and
nothing else changes. -/
def Obligations.UnroutedDatagramIsCountedAndDropped : Prop :=
  ∀ (s : State) (port : BitVec 16) (data : List Byte) (ts : Nat),
    (s.status.running = false ∨ ∀ i b, i < s.nPorts → (s.slot i).bound = some b → b.port ≠ port) →
    exec (.dgramUnrouted port data ts) s = .next { s with unrouted := s.unrouted + 1, out := .quiet }

/-- A routed datagram without bytes (42 R124) increments `RX_DGRAMS` and changes nothing else; an unrouted one counts
in `UNROUTED` like any other. -/
def Obligations.EmptyDatagramCountsOnly : Prop :=
  ∀ (s : State) (port : BitVec 16) (ts : Nat),
    (∀ i, s.ingressSlot port = some i → exec (.dgramRouted port [] ts) s = .next { s with
        slots := s.slots.set i { s.slot i with rxDgrams := (s.slot i).rxDgrams + 1 }, out := .quiet })
      ∧ (s.ingressSlot port = none →
          exec (.dgramUnrouted port [] ts) s = .next { s with unrouted := s.unrouted + 1, out := .quiet })

/-- `Route` (42 R121) finds the slot that has bound the port, in a state that meets the invariant: there is at most
one, and port 0 never matches. -/
def Obligations.RouteFindsTheUniqueBoundSlot : Prop :=
  ∀ (s : State) (port : BitVec 16), s.Inv →
    (∀ i, s.route port = some i ↔ i < s.nPorts ∧ ∃ b, (s.slot i).bound = some b ∧ b.port = port)
      ∧ s.route 0 = none

/-- START while running (42 R129) sets `CMD_ERR` and changes nothing else. -/
def Obligations.StartWhileRunningIsRefused : Prop :=
  ∀ (s : State) (hi : BitVec 30), s.status.running = true →
    exec (.cmdStart hi) s = .next { s with status := { s.status with cmdErr := true }, out := .writeOk }

/-- A failed START (42 R126, R127, 60 R168): where some slot cannot be bound, the lowest such slot and its lowest cause
are reported, `START_FAIL` is set, the attempt is counted, and nothing else changes. -/
def Obligations.FailedStartReportsTheLowestSlot : Prop :=
  ∀ (s : State) (hi : BitVec 30) (i : Nat) (cause : BitVec 2), s.status.running = false →
    s.CannotBind (s.attempt + 1) i cause → (∀ j c, j < i → ¬s.CannotBind (s.attempt + 1) j c) →
    exec (.cmdStart hi) s = .next { s with
      attempt := s.attempt + 1
      status := { s.status with startFail := true, failSlot := BitVec.ofNat 3 i, failCause := cause }
      out := .writeOk }

/-- A successful START (42 R126, R128): where every enabled slot can be bound, each enabled slot is bound to its
configured port and role and the others to none, every framer and counter is fresh, `UNROUTED` is zero and the block
runs; `PORT_CFG`, `OUTQ`, `CTRL` and the sticky bits are kept. The role is the one whose code of 10 R26 stands in
`PORT_CFG[17:16]`. -/
def Obligations.SuccessfulStartBindsEverySlot : Prop :=
  ∀ (s : State) (hi : BitVec 30), s.status.running = false → (∀ i c, ¬s.CannotBind (s.attempt + 1) i c) →
    exec (.cmdStart hi) s = .next { s with
      attempt := s.attempt + 1
      slots := s.slots.map fun f =>
        { st := .seeking, buf := [], rxDgrams := 0, rxBytes := 0, framesOk := 0, resyncDrops := 0, lenOvf := 0
          trailerErr := 0, csumErr := 0, discarded := 0, portCfg := f.portCfg, outq := f.outq
          bound := if f.portCfg.getLsbD 31 then
            some {
              port := f.portCfg.extractLsb' 0 16
              role :=
                if f.portCfg.extractLsb' 16 2 = 0 then .commandResponse
                else if f.portCfg.extractLsb' 16 2 = 1 then .telemetry
                else if f.portCfg.extractLsb' 16 2 = 2 then .lidar
                else .planning }
            else none }
      unrouted := 0
      status := { s.status with running := true }
      out := .writeOk }

/-- STOP (42 R130): while running it unbinds every slot, empties every framer and stops; counters, `OUTQ`, `CTRL`,
`PORT_CFG` and the sticky bits are kept. While stopped it has no effect. -/
def Obligations.StopUnbindsAndIsIdempotent : Prop :=
  ∀ (s : State) (hi : BitVec 30),
    (s.status.running = true → exec (.cmdStop hi) s = .next { s with
      slots := s.slots.map fun f => { f with bound := none, st := .seeking, buf := [] }
      status := { s.status with running := false }
      out := .writeOk })
      ∧ (s.status.running = false → exec (.cmdStop hi) s = .next { s with out := .writeOk })

/-- DELIVER (42 R131): the head event of any non-empty queue is handed to the consumer and removed; nothing else
changes. -/
def Obligations.DeliverHandsOverTheHeadEvent : Prop :=
  ∀ (s : State) (i : Nat) (e : Event) (rest : List Event), i < s.nPorts → (s.slot i).outq = e :: rest →
    exec (.deliver i) s = .next { s with
      slots := s.slots.set i { s.slot i with outq := rest }
      out := .delivered i e }

/-- Output order within one slot (20 R52): whatever a step is, each slot's queue is appended to, or loses its head to
the consumer, or is emptied by reset; and an event of the slot is handed over only as the head that its queue loses. So
each event is delivered once, in emission order. -/
def Obligations.OutputQueuesAreFifo : Prop :=
  ∀ (s t : State) (i : Nat), step s = .next t → i < s.nPorts →
    ((∃ evs, (t.slot i).outq = (s.slot i).outq ++ evs)
      ∨ (∃ e, t.out = .delivered i e ∧ (s.slot i).outq = e :: (t.slot i).outq)
      ∨ (s.inbox.head? = some .reset ∧ (t.slot i).outq = []))
      ∧ ∀ e, t.out = .delivered i e → (s.slot i).outq = e :: (t.slot i).outq

/-! ### Reset and the whole machine -/

/-- RESET (70 R185, 10 R35): every piece of state takes its reset value; the build's parameters, the number of slots,
the platform's answers and the agents' later steps are no state of the block (log 24). -/
def Obligations.ResetRestoresEveryResetValue : Prop :=
  ∀ s : State, ∃ t, exec .reset s = .next t
    ∧ t.nPorts = s.nPorts ∧ t.par = s.par ∧ t.bindAnswers = s.bindAnswers ∧ t.inbox = s.inbox
    ∧ t.ctrl = 0 ∧ t.status.word = 0 ∧ t.unrouted = 0 ∧ t.attempt = 0
    ∧ ∀ i, i < s.nPorts → (t.slot i).st = .seeking ∧ (t.slot i).buf = [] ∧ (t.slot i).rxDgrams = 0
      ∧ (t.slot i).rxBytes = 0 ∧ (t.slot i).framesOk = 0 ∧ (t.slot i).resyncDrops = 0 ∧ (t.slot i).lenOvf = 0
      ∧ (t.slot i).trailerErr = 0 ∧ (t.slot i).csumErr = 0 ∧ (t.slot i).discarded = 0 ∧ (t.slot i).portCfg = 0
      ∧ (t.slot i).bound = none ∧ (t.slot i).outq = []

/-- The state after reset meets the invariant (10 R36, R37). -/
def Obligations.InvariantHoldsAtReset : Prop :=
  State.reset.Inv

/-- Every step keeps the invariant (10 R36, R37): bound ports stay distinct and nonzero, nothing is bound while
stopped, every framer stays quiescent, reserved bits stay zero and every queued event stays well formed. -/
def Obligations.EveryStepKeepsTheInvariant : Prop :=
  ∀ s t : State, s.Inv → step s = .next t → t.Inv

/-- No input stops the block (60 R160): from every state, whatever agent's step comes next, a step answers a next
state. -/
def Obligations.NoInputStopsTheBlock : Prop :=
  ∀ s : State, ∃ t, step s = .next t

/-- What binds and runs the block (10 R27, 43 R146): `RUNNING` and `BOUND` change only by a START or STOP command or by
reset. -/
def Obligations.OnlyLifecycleStepsChangeBinding : Prop :=
  ∀ (s t : State) (i : Nat), step s = .next t →
    (t.status.running ≠ s.status.running ∨ (t.slot i).bound ≠ (s.slot i).bound) →
    s.inbox.head? = some .reset
      ∨ ∃ v : Word, s.inbox.head? = some (.write 0x00C 4 v) ∧ (v.toNat % 4 = 1 ∨ v.toNat % 4 = 2)

/-- No timeout (41 R111): a framer's state and buffer change only by bytes routed to its slot, by STOP, by a START
while stopped, and by reset, in every state that meets the invariant. -/
def Obligations.PartialFramesNeverTimeOut : Prop :=
  ∀ (s t : State) (i : Nat), s.Inv → step s = .next t → i < s.nPorts →
    ((t.slot i).st ≠ (s.slot i).st ∨ (t.slot i).buf ≠ (s.slot i).buf) →
    s.inbox.head? = some .reset
      ∨ (∃ v : Word, s.inbox.head? = some (.write 0x00C 4 v)
          ∧ ((v.toNat % 4 = 1 ∧ s.status.running = false ∧ t.status.running = true)
            ∨ (v.toNat % 4 = 2 ∧ s.status.running = true)))
      ∨ ∃ b data ts, s.inbox.head? = some (.dgram b.port data ts) ∧ (s.slot i).bound = some b ∧ data ≠ []
          ∧ s.status.running = true

/-- The parameters of the build and the number of slots are constants (10 R35, 70 R185), the platform's answers are not
the block's to change, and `ATTEMPT` moves only by one, or back to zero (10 R33, 42 R125). -/
def Obligations.ParametersNeverChange : Prop :=
  ∀ s t : State, step s = .next t →
    t.par = s.par ∧ t.nPorts = s.nPorts ∧ t.bindAnswers = s.bindAnswers ∧ t.inbox = s.inbox.tail
      ∧ (t.attempt = s.attempt ∨ t.attempt = s.attempt + 1 ∨ t.attempt = 0)

/-- Framer independence (41 R109): two blocks that agree on slot `i`, `CTRL`, the parameters and where the datagram goes
end with the same slot `i`, whatever their other slots hold. -/
def Obligations.SlotsDoNotInterfere : Prop :=
  ∀ (s s' t t' : State) (i : Nat) (port : BitVec 16) (data : List Byte) (ts : Nat),
    s.par = s'.par → s.ctrl = s'.ctrl → s.slot i = s'.slot i → s.ingressSlot port = some i →
    s'.ingressSlot port = some i → exec (.dgramRouted port data ts) s = .next t →
    exec (.dgramRouted port data ts) s' = .next t' → t.slot i = t'.slot i ∧ ∀ j, j ≠ i → t.slot j = s.slot j
end

