-- ==== Sys2Proof/Laws/Bytes.lean ====
section
/-! SUPPORT. The laws of the byte-sequence helpers: `peek`, `slice`, `xorAll` and the length field. -/

namespace Sys2Proof.Machine

/-! ### Peeking -/

theorem peek_of_lt {buf : List Byte} {k : Nat} (h : k < buf.length) : peek buf k = buf[k] := by
  simp [peek, List.getD_eq_getElem?_getD, List.getElem?_eq_getElem h]

@[simp] theorem peek_zero_cons (b : Byte) (buf : List Byte) : peek (b :: buf) 0 = b := rfl

theorem peek_eq_of_getElem? {buf : List Byte} {k : Nat} {b : Byte} (h : buf[k]? = some b) : peek buf k = b := by
  simp [peek, List.getD_eq_getElem?_getD, h]

/-- Later bytes do not change what is peeked (41 R107). -/
theorem peek_append {buf : List Byte} {k : Nat} (h : k < buf.length) (x : List Byte) :
    peek (buf ++ x) k = peek buf k := by
  rw [peek_of_lt h, peek_of_lt (by simp; omega), List.getElem_append_left h]

/-! ### The length field -/

/-- The length field is big-endian: `L = buf[3] * 256 + buf[4]` (20 R41). -/
theorem frameLen_eq_headerLen (buf : List Byte) : frameLen buf = headerLen buf := by
  simp only [frameLen, lengthField, headerLen, BitVec.toNat_append]
  rw [Nat.shiftLeft_eq, Nat.mul_comm, ← Nat.two_pow_add_eq_or_of_lt (peek buf 4).isLt]

theorem frameLen_append {buf : List Byte} (h : 5 ≤ buf.length) (x : List Byte) :
    frameLen (buf ++ x) = frameLen buf := by
  simp only [frameLen_eq_headerLen, headerLen]
  rw [peek_append (by omega), peek_append (by omega)]

theorem lengthField_append {buf : List Byte} (h : 5 ≤ buf.length) (x : List Byte) :
    lengthField (buf ++ x) = lengthField buf := by
  simp only [lengthField]
  rw [peek_append (by omega), peek_append (by omega)]

/-! ### Slices -/

@[simp] theorem length_slice (buf : List Byte) (lo len : Nat) : (slice buf lo len).length = len := by simp [slice]

/-- A slice inside the buffer is `buf[lo .. lo+len)` of 00 R10. -/
theorem slice_eq_take_drop {buf : List Byte} {lo len : Nat} (h : lo + len ≤ buf.length) :
    slice buf lo len = (buf.drop lo).take len := by
  apply List.ext_getElem
  · simp; omega
  · intro n h1 h2
    simp only [length_slice] at h1
    simp only [slice, List.getElem_map, List.getElem_range, List.getElem_take, List.getElem_drop]
    exact peek_of_lt (by omega)

theorem slice_append {buf : List Byte} {lo len : Nat} (h : lo + len ≤ buf.length) (x : List Byte) :
    slice (buf ++ x) lo len = slice buf lo len := by
  apply List.ext_getElem (by simp)
  intro n h1 h2
  simp only [length_slice] at h1
  simp only [slice, List.getElem_map, List.getElem_range]
  exact peek_append (by omega) x

/-! ### The exclusive OR -/

theorem foldl_xor (a : Byte) (s : List Byte) : s.foldl (· ^^^ ·) a = a ^^^ xorAll s := by
  induction s generalizing a with
  | nil => simp [xorAll]
  | cons b s ih =>
    have hb : xorAll (b :: s) = (0 ^^^ b) ^^^ xorAll s := ih _
    rw [List.foldl_cons, ih, hb]
    simp [BitVec.xor_assoc]

@[simp] theorem xorAll_nil : xorAll [] = 0 := rfl

@[simp] theorem xorAll_cons (b : Byte) (s : List Byte) : xorAll (b :: s) = b ^^^ xorAll s := by
  have h : xorAll (b :: s) = (0 ^^^ b) ^^^ xorAll s := foldl_xor _ s
  simpa using h

@[simp] theorem xorAll_append (s t : List Byte) : xorAll (s ++ t) = xorAll s ^^^ xorAll t := by
  induction s with
  | nil => simp
  | cons b s ih => simp [ih, BitVec.xor_assoc]

/-! ### The sync pair -/

theorem syncAtHead_iff {p : Params} {buf : List Byte} (h : 2 ≤ buf.length) :
    syncAtHead p buf = true ↔ opensWithSync p buf := by
  match buf, h with
  | b0 :: b1 :: rest, _ => simp [syncAtHead, opensWithSync, peek]

theorem opensWithSync_length {p : Params} {buf : List Byte} (h : opensWithSync p buf) : 2 ≤ buf.length := by
  have := congrArg List.length h
  simp at this
  omega

end Sys2Proof.Machine
end

