-- ==== Sys2Proof/Laws/Codec.lean ====
section
/-! SUPPORT. The fields of a complete frame, read off a buffer written out byte by byte (30 R61, 40 R83). -/

namespace Sys2Proof.Machine

theorem headerLen_cons (b0 b1 fc hi lo : Byte) (tail : List Byte) :
    headerLen (b0 :: b1 :: fc :: hi :: lo :: tail) = hi.toNat * 256 + lo.toNat := rfl

/-- The bytes of a length, high byte first, give the length back (20 R41). -/
theorem lengthBytes {n : Nat} (h : n ≤ 65535) :
    ((BitVec.ofNat 16 n).extractLsb' 8 8).toNat * 256 + ((BitVec.ofNat 16 n).extractLsb' 0 8).toNat = n := by
  rw [BitVec.extractLsb'_toNat, BitVec.extractLsb'_toNat, BitVec.toNat_ofNat, Nat.shiftRight_eq_div_pow,
    Nat.shiftRight_zero]
  omega

theorem lengthField_cons (b0 b1 fc hi lo : Byte) (tail : List Byte) :
    lengthField (b0 :: b1 :: fc :: hi :: lo :: tail) = BitVec.ofNat 16 (hi.toNat * 256 + lo.toNat) := by
  apply BitVec.eq_of_toNat_eq
  show frameLen (b0 :: b1 :: fc :: hi :: lo :: tail) = _
  rw [frameLen_eq_headerLen, headerLen_cons, BitVec.toNat_ofNat, Nat.mod_eq_of_lt]
  have := hi.isLt
  have := lo.isLt
  omega

/-- Everything `DecodeFrame` reads from a buffer that holds a complete frame (40 R83). -/
theorem frameFields_cons (p : Params) (b0 b1 fc hi lo c t0 t1 : Byte) (payload rest : List Byte)
    (hp : payload.length = hi.toNat * 256 + lo.toNat) :
    frameFields p (b0 :: b1 :: fc :: hi :: lo :: (payload ++ c :: t0 :: t1 :: rest)) =
      { funcCode := fc
        length := BitVec.ofNat 16 (hi.toNat * 256 + lo.toNat)
        payload := payload
        csumRx := c
        csumCalc := xorAll (b0 :: b1 :: fc :: hi :: lo :: payload)
        csumOk := xorAll (b0 :: b1 :: fc :: hi :: lo :: payload) == c
        trailerOk := t0 == p.trailer0 && t1 == p.trailer1
        consumed := 8 + payload.length } := by
  generalize hbuf : b0 :: b1 :: fc :: hi :: lo :: (payload ++ c :: t0 :: t1 :: rest) = buf
  have hlen : buf.length = 8 + payload.length + rest.length := by rw [← hbuf]; simp; omega
  have hL : frameLen buf = payload.length := by rw [frameLen_eq_headerLen, ← hbuf, headerLen_cons, hp]
  have hk (k : Nat) (b : Byte) (h : (c :: t0 :: t1 :: rest)[k]? = some b) : peek buf (5 + k + payload.length) = b := by
    apply peek_eq_of_getElem?
    rw [← h, ← hbuf, show 5 + k + payload.length = payload.length + k + 1 + 1 + 1 + 1 + 1 by omega]
    simp only [List.getElem?_cons_succ]
    rw [List.getElem?_append_right (by omega), Nat.add_sub_cancel_left]
  have hc : csumRx buf = c := by
    unfold csumRx
    rw [hL]
    exact hk 0 c rfl
  have hcc : csumCalc buf = xorAll (b0 :: b1 :: fc :: hi :: lo :: payload) := by
    unfold csumCalc
    rw [hL, slice_eq_take_drop (by omega), List.drop_zero, ← hbuf,
      show 5 + payload.length = payload.length + 1 + 1 + 1 + 1 + 1 by omega]
    simp
  have ht : trailerOk p buf = (t0 == p.trailer0 && t1 == p.trailer1) := by
    unfold trailerOk
    rw [hL, hk 1 t0 rfl, hk 2 t1 rfl]
  have hlf : lengthField buf = BitVec.ofNat 16 (hi.toNat * 256 + lo.toNat) := by rw [← hbuf, lengthField_cons]
  have hpl : slice buf 5 payload.length = payload := by
    rw [slice_eq_take_drop (by omega), ← hbuf]
    simp
  have hfc : peek buf 2 = fc := by rw [← hbuf]; rfl
  unfold frameFields csumOk
  rw [hc, hcc, ht, hL, hlf, hpl, hfc]

end Sys2Proof.Machine
end

