-- ==== Sys2Proof/Laws/State.lean ====
section
/-! SUPPORT. One lemma per field per update of the state and of a slot, true by definition, so that no later proof
unfolds a record update. -/

namespace Sys2Proof.Machine

/-! ### `State.drive` -/

@[simp] theorem State.par_drive (s : State) (o : Out) : (s.drive o).par = s.par := rfl
@[simp] theorem State.bindAnswers_drive (s : State) (o : Out) : (s.drive o).bindAnswers = s.bindAnswers := rfl
@[simp] theorem State.slots_drive (s : State) (o : Out) : (s.drive o).slots = s.slots := rfl
@[simp] theorem State.ctrl_drive (s : State) (o : Out) : (s.drive o).ctrl = s.ctrl := rfl
@[simp] theorem State.status_drive (s : State) (o : Out) : (s.drive o).status = s.status := rfl
@[simp] theorem State.unrouted_drive (s : State) (o : Out) : (s.drive o).unrouted = s.unrouted := rfl
@[simp] theorem State.attempt_drive (s : State) (o : Out) : (s.drive o).attempt = s.attempt := rfl
@[simp] theorem State.inbox_drive (s : State) (o : Out) : (s.drive o).inbox = s.inbox := rfl
@[simp] theorem State.out_drive (s : State) (o : Out) : (s.drive o).out = o := rfl

/-! ### `State.mapSlot` -/

@[simp] theorem State.par_mapSlot (s : State) (i : Nat) (g : Slot → Slot) : (s.mapSlot i g).par = s.par := rfl
@[simp] theorem State.bindAnswers_mapSlot (s : State) (i : Nat) (g : Slot → Slot) : (s.mapSlot i g).bindAnswers = s.bindAnswers := rfl
@[simp] theorem State.slots_mapSlot (s : State) (i : Nat) (g : Slot → Slot) : (s.mapSlot i g).slots = s.slots.modify i g := rfl
@[simp] theorem State.ctrl_mapSlot (s : State) (i : Nat) (g : Slot → Slot) : (s.mapSlot i g).ctrl = s.ctrl := rfl
@[simp] theorem State.status_mapSlot (s : State) (i : Nat) (g : Slot → Slot) : (s.mapSlot i g).status = s.status := rfl
@[simp] theorem State.unrouted_mapSlot (s : State) (i : Nat) (g : Slot → Slot) : (s.mapSlot i g).unrouted = s.unrouted := rfl
@[simp] theorem State.attempt_mapSlot (s : State) (i : Nat) (g : Slot → Slot) : (s.mapSlot i g).attempt = s.attempt := rfl
@[simp] theorem State.inbox_mapSlot (s : State) (i : Nat) (g : Slot → Slot) : (s.mapSlot i g).inbox = s.inbox := rfl
@[simp] theorem State.out_mapSlot (s : State) (i : Nat) (g : Slot → Slot) : (s.mapSlot i g).out = s.out := rfl

/-! ### `State.commandError` -/

@[simp] theorem State.par_commandError (s : State) : (s.commandError).par = s.par := rfl
@[simp] theorem State.bindAnswers_commandError (s : State) : (s.commandError).bindAnswers = s.bindAnswers := rfl
@[simp] theorem State.slots_commandError (s : State) : (s.commandError).slots = s.slots := rfl
@[simp] theorem State.ctrl_commandError (s : State) : (s.commandError).ctrl = s.ctrl := rfl
@[simp] theorem State.status_commandError (s : State) : (s.commandError).status = { s.status with cmdErr := true } := rfl
@[simp] theorem State.unrouted_commandError (s : State) : (s.commandError).unrouted = s.unrouted := rfl
@[simp] theorem State.attempt_commandError (s : State) : (s.commandError).attempt = s.attempt := rfl
@[simp] theorem State.inbox_commandError (s : State) : (s.commandError).inbox = s.inbox := rfl
@[simp] theorem State.out_commandError (s : State) : (s.commandError).out = s.out := rfl

/-! ### `State.startFailed` -/

@[simp] theorem State.par_startFailed (s : State) (i : Nat) (c : BindCause) : (s.startFailed i c).par = s.par := rfl
@[simp] theorem State.bindAnswers_startFailed (s : State) (i : Nat) (c : BindCause) : (s.startFailed i c).bindAnswers = s.bindAnswers := rfl
@[simp] theorem State.slots_startFailed (s : State) (i : Nat) (c : BindCause) : (s.startFailed i c).slots = s.slots := rfl
@[simp] theorem State.ctrl_startFailed (s : State) (i : Nat) (c : BindCause) : (s.startFailed i c).ctrl = s.ctrl := rfl
@[simp] theorem State.status_startFailed (s : State) (i : Nat) (c : BindCause) : (s.startFailed i c).status = { s.status with startFail := true, failSlot := slotBits i, failCause := c.bits } := rfl
@[simp] theorem State.unrouted_startFailed (s : State) (i : Nat) (c : BindCause) : (s.startFailed i c).unrouted = s.unrouted := rfl
@[simp] theorem State.attempt_startFailed (s : State) (i : Nat) (c : BindCause) : (s.startFailed i c).attempt = s.attempt := rfl
@[simp] theorem State.inbox_startFailed (s : State) (i : Nat) (c : BindCause) : (s.startFailed i c).inbox = s.inbox := rfl
@[simp] theorem State.out_startFailed (s : State) (i : Nat) (c : BindCause) : (s.startFailed i c).out = s.out := rfl

/-! ### `State.startOk` -/

@[simp] theorem State.par_startOk (s : State) : (s.startOk).par = s.par := rfl
@[simp] theorem State.bindAnswers_startOk (s : State) : (s.startOk).bindAnswers = s.bindAnswers := rfl
@[simp] theorem State.slots_startOk (s : State) : (s.startOk).slots = s.slots.map fun f => f.start (latched f.portCfg) := rfl
@[simp] theorem State.ctrl_startOk (s : State) : (s.startOk).ctrl = s.ctrl := rfl
@[simp] theorem State.status_startOk (s : State) : (s.startOk).status = { s.status with running := true } := rfl
@[simp] theorem State.unrouted_startOk (s : State) : (s.startOk).unrouted = 0 := rfl
@[simp] theorem State.attempt_startOk (s : State) : (s.startOk).attempt = s.attempt := rfl
@[simp] theorem State.inbox_startOk (s : State) : (s.startOk).inbox = s.inbox := rfl
@[simp] theorem State.out_startOk (s : State) : (s.startOk).out = s.out := rfl

/-! ### `Slot.append` -/

@[simp] theorem Slot.st_append (f : Slot) (b : Byte) : (f.append b).st = f.st := rfl
@[simp] theorem Slot.buf_append (f : Slot) (b : Byte) : (f.append b).buf = f.buf ++ [b] := rfl
@[simp] theorem Slot.rxDgrams_append (f : Slot) (b : Byte) : (f.append b).rxDgrams = f.rxDgrams := rfl
@[simp] theorem Slot.rxBytes_append (f : Slot) (b : Byte) : (f.append b).rxBytes = f.rxBytes := rfl
@[simp] theorem Slot.framesOk_append (f : Slot) (b : Byte) : (f.append b).framesOk = f.framesOk := rfl
@[simp] theorem Slot.resyncDrops_append (f : Slot) (b : Byte) : (f.append b).resyncDrops = f.resyncDrops := rfl
@[simp] theorem Slot.lenOvf_append (f : Slot) (b : Byte) : (f.append b).lenOvf = f.lenOvf := rfl
@[simp] theorem Slot.trailerErr_append (f : Slot) (b : Byte) : (f.append b).trailerErr = f.trailerErr := rfl
@[simp] theorem Slot.csumErr_append (f : Slot) (b : Byte) : (f.append b).csumErr = f.csumErr := rfl
@[simp] theorem Slot.discarded_append (f : Slot) (b : Byte) : (f.append b).discarded = f.discarded := rfl
@[simp] theorem Slot.portCfg_append (f : Slot) (b : Byte) : (f.append b).portCfg = f.portCfg := rfl
@[simp] theorem Slot.bound_append (f : Slot) (b : Byte) : (f.append b).bound = f.bound := rfl
@[simp] theorem Slot.outq_append (f : Slot) (b : Byte) : (f.append b).outq = f.outq := rfl

/-! ### `Slot.drop` -/

@[simp] theorem Slot.st_drop (f : Slot) (n : Nat) : (f.drop n).st = f.st := rfl
@[simp] theorem Slot.buf_drop (f : Slot) (n : Nat) : (f.drop n).buf = f.buf.drop n := rfl
@[simp] theorem Slot.rxDgrams_drop (f : Slot) (n : Nat) : (f.drop n).rxDgrams = f.rxDgrams := rfl
@[simp] theorem Slot.rxBytes_drop (f : Slot) (n : Nat) : (f.drop n).rxBytes = f.rxBytes := rfl
@[simp] theorem Slot.framesOk_drop (f : Slot) (n : Nat) : (f.drop n).framesOk = f.framesOk := rfl
@[simp] theorem Slot.resyncDrops_drop (f : Slot) (n : Nat) : (f.drop n).resyncDrops = f.resyncDrops := rfl
@[simp] theorem Slot.lenOvf_drop (f : Slot) (n : Nat) : (f.drop n).lenOvf = f.lenOvf := rfl
@[simp] theorem Slot.trailerErr_drop (f : Slot) (n : Nat) : (f.drop n).trailerErr = f.trailerErr := rfl
@[simp] theorem Slot.csumErr_drop (f : Slot) (n : Nat) : (f.drop n).csumErr = f.csumErr := rfl
@[simp] theorem Slot.discarded_drop (f : Slot) (n : Nat) : (f.drop n).discarded = f.discarded := rfl
@[simp] theorem Slot.portCfg_drop (f : Slot) (n : Nat) : (f.drop n).portCfg = f.portCfg := rfl
@[simp] theorem Slot.bound_drop (f : Slot) (n : Nat) : (f.drop n).bound = f.bound := rfl
@[simp] theorem Slot.outq_drop (f : Slot) (n : Nat) : (f.drop n).outq = f.outq := rfl

/-! ### `Slot.emit` -/

@[simp] theorem Slot.st_emit (f : Slot) (evs : List Event) : (f.emit evs).st = f.st := rfl
@[simp] theorem Slot.buf_emit (f : Slot) (evs : List Event) : (f.emit evs).buf = f.buf := rfl
@[simp] theorem Slot.rxDgrams_emit (f : Slot) (evs : List Event) : (f.emit evs).rxDgrams = f.rxDgrams := rfl
@[simp] theorem Slot.rxBytes_emit (f : Slot) (evs : List Event) : (f.emit evs).rxBytes = f.rxBytes := rfl
@[simp] theorem Slot.framesOk_emit (f : Slot) (evs : List Event) : (f.emit evs).framesOk = f.framesOk := rfl
@[simp] theorem Slot.resyncDrops_emit (f : Slot) (evs : List Event) : (f.emit evs).resyncDrops = f.resyncDrops := rfl
@[simp] theorem Slot.lenOvf_emit (f : Slot) (evs : List Event) : (f.emit evs).lenOvf = f.lenOvf := rfl
@[simp] theorem Slot.trailerErr_emit (f : Slot) (evs : List Event) : (f.emit evs).trailerErr = f.trailerErr := rfl
@[simp] theorem Slot.csumErr_emit (f : Slot) (evs : List Event) : (f.emit evs).csumErr = f.csumErr := rfl
@[simp] theorem Slot.discarded_emit (f : Slot) (evs : List Event) : (f.emit evs).discarded = f.discarded := rfl
@[simp] theorem Slot.portCfg_emit (f : Slot) (evs : List Event) : (f.emit evs).portCfg = f.portCfg := rfl
@[simp] theorem Slot.bound_emit (f : Slot) (evs : List Event) : (f.emit evs).bound = f.bound := rfl
@[simp] theorem Slot.outq_emit (f : Slot) (evs : List Event) : (f.emit evs).outq = f.outq ++ evs := rfl

/-! ### `Slot.stop` -/

@[simp] theorem Slot.st_stop (f : Slot) : (f.stop).st = .seeking := rfl
@[simp] theorem Slot.buf_stop (f : Slot) : (f.stop).buf = [] := rfl
@[simp] theorem Slot.rxDgrams_stop (f : Slot) : (f.stop).rxDgrams = f.rxDgrams := rfl
@[simp] theorem Slot.rxBytes_stop (f : Slot) : (f.stop).rxBytes = f.rxBytes := rfl
@[simp] theorem Slot.framesOk_stop (f : Slot) : (f.stop).framesOk = f.framesOk := rfl
@[simp] theorem Slot.resyncDrops_stop (f : Slot) : (f.stop).resyncDrops = f.resyncDrops := rfl
@[simp] theorem Slot.lenOvf_stop (f : Slot) : (f.stop).lenOvf = f.lenOvf := rfl
@[simp] theorem Slot.trailerErr_stop (f : Slot) : (f.stop).trailerErr = f.trailerErr := rfl
@[simp] theorem Slot.csumErr_stop (f : Slot) : (f.stop).csumErr = f.csumErr := rfl
@[simp] theorem Slot.discarded_stop (f : Slot) : (f.stop).discarded = f.discarded := rfl
@[simp] theorem Slot.portCfg_stop (f : Slot) : (f.stop).portCfg = f.portCfg := rfl
@[simp] theorem Slot.bound_stop (f : Slot) : (f.stop).bound = none := rfl
@[simp] theorem Slot.outq_stop (f : Slot) : (f.stop).outq = f.outq := rfl

/-! ### `Slot.start` -/

@[simp] theorem Slot.st_start (f : Slot) (b : Option Binding) : (f.start b).st = .seeking := rfl
@[simp] theorem Slot.buf_start (f : Slot) (b : Option Binding) : (f.start b).buf = [] := rfl
@[simp] theorem Slot.rxDgrams_start (f : Slot) (b : Option Binding) : (f.start b).rxDgrams = 0 := rfl
@[simp] theorem Slot.rxBytes_start (f : Slot) (b : Option Binding) : (f.start b).rxBytes = 0 := rfl
@[simp] theorem Slot.framesOk_start (f : Slot) (b : Option Binding) : (f.start b).framesOk = 0 := rfl
@[simp] theorem Slot.resyncDrops_start (f : Slot) (b : Option Binding) : (f.start b).resyncDrops = 0 := rfl
@[simp] theorem Slot.lenOvf_start (f : Slot) (b : Option Binding) : (f.start b).lenOvf = 0 := rfl
@[simp] theorem Slot.trailerErr_start (f : Slot) (b : Option Binding) : (f.start b).trailerErr = 0 := rfl
@[simp] theorem Slot.csumErr_start (f : Slot) (b : Option Binding) : (f.start b).csumErr = 0 := rfl
@[simp] theorem Slot.discarded_start (f : Slot) (b : Option Binding) : (f.start b).discarded = 0 := rfl
@[simp] theorem Slot.portCfg_start (f : Slot) (b : Option Binding) : (f.start b).portCfg = f.portCfg := rfl
@[simp] theorem Slot.bound_start (f : Slot) (b : Option Binding) : (f.start b).bound = b := rfl
@[simp] theorem Slot.outq_start (f : Slot) (b : Option Binding) : (f.start b).outq = f.outq := rfl

/-! ### The mismatch counters -/

@[simp] theorem st_countMismatches (p : Params) (f : Slot) : (countMismatches p f).st = f.st := rfl
@[simp] theorem buf_countMismatches (p : Params) (f : Slot) : (countMismatches p f).buf = f.buf := rfl
@[simp] theorem rxDgrams_countMismatches (p : Params) (f : Slot) : (countMismatches p f).rxDgrams = f.rxDgrams := rfl
@[simp] theorem rxBytes_countMismatches (p : Params) (f : Slot) : (countMismatches p f).rxBytes = f.rxBytes := rfl
@[simp] theorem framesOk_countMismatches (p : Params) (f : Slot) : (countMismatches p f).framesOk = f.framesOk := rfl
@[simp] theorem resyncDrops_countMismatches (p : Params) (f : Slot) : (countMismatches p f).resyncDrops = f.resyncDrops := rfl
@[simp] theorem lenOvf_countMismatches (p : Params) (f : Slot) : (countMismatches p f).lenOvf = f.lenOvf := rfl
@[simp] theorem discarded_countMismatches (p : Params) (f : Slot) : (countMismatches p f).discarded = f.discarded := rfl
@[simp] theorem portCfg_countMismatches (p : Params) (f : Slot) : (countMismatches p f).portCfg = f.portCfg := rfl
@[simp] theorem bound_countMismatches (p : Params) (f : Slot) : (countMismatches p f).bound = f.bound := rfl
@[simp] theorem outq_countMismatches (p : Params) (f : Slot) : (countMismatches p f).outq = f.outq := rfl

/-! ### The slot after reset -/

@[simp] theorem Slot.st_reset : Slot.reset.st = .seeking := rfl
@[simp] theorem Slot.buf_reset : Slot.reset.buf = [] := rfl
@[simp] theorem Slot.rxDgrams_reset : Slot.reset.rxDgrams = 0 := rfl
@[simp] theorem Slot.rxBytes_reset : Slot.reset.rxBytes = 0 := rfl
@[simp] theorem Slot.framesOk_reset : Slot.reset.framesOk = 0 := rfl
@[simp] theorem Slot.resyncDrops_reset : Slot.reset.resyncDrops = 0 := rfl
@[simp] theorem Slot.lenOvf_reset : Slot.reset.lenOvf = 0 := rfl
@[simp] theorem Slot.trailerErr_reset : Slot.reset.trailerErr = 0 := rfl
@[simp] theorem Slot.csumErr_reset : Slot.reset.csumErr = 0 := rfl
@[simp] theorem Slot.discarded_reset : Slot.reset.discarded = 0 := rfl
@[simp] theorem Slot.portCfg_reset : Slot.reset.portCfg = 0 := rfl
@[simp] theorem Slot.bound_reset : Slot.reset.bound = none := rfl
@[simp] theorem Slot.outq_reset : Slot.reset.outq = [] := rfl

end Sys2Proof.Machine
end

