-- ==== Sys2Proof/Laws/Slots.lean ====
section
/-! SUPPORT. Reading a slot after a slot is rewritten: the laws of `State.slot` and `State.mapSlot`. -/

namespace Sys2Proof.Machine

theorem slot_of_lt (s : State) {i : Nat} (h : i < s.nPorts) : s.slot i = s.slots[i]'h := by
  simp [State.slot, List.getD_eq_getElem?_getD, List.getElem?_eq_getElem (show i < s.slots.length from h)]
  rfl

/-- A slot the block does not have reads as one right after reset (30 R77). -/
theorem slot_of_ge (s : State) {i : Nat} (h : s.nPorts ≤ i) : s.slot i = Slot.reset := by
  simp [State.slot, List.getD_eq_getElem?_getD, List.getElem?_eq_none (show s.slots.length ≤ i from h)]

@[simp] theorem nPorts_mapSlot (s : State) (i : Nat) (g : Slot → Slot) : (s.mapSlot i g).nPorts = s.nPorts := by
  simp [State.nPorts]

@[simp] theorem nPorts_drive (s : State) (o : Out) : (s.drive o).nPorts = s.nPorts := rfl

@[simp] theorem slot_drive (s : State) (o : Out) (i : Nat) : (s.drive o).slot i = s.slot i := rfl

theorem slot_mapSlot_self (s : State) {i : Nat} (g : Slot → Slot) (h : i < s.nPorts) :
    (s.mapSlot i g).slot i = g (s.slot i) := by
  rw [slot_of_lt _ (by simpa using h), slot_of_lt _ h]
  simp
  rfl

theorem slot_mapSlot_ne (s : State) {i j : Nat} (g : Slot → Slot) (h : j ≠ i) : (s.mapSlot i g).slot j = s.slot j := by
  simp [State.slot, List.getD_eq_getElem?_getD, Ne.symm h]

/-- Everything rewriting slot `i` can do to slot `j`. -/
theorem slot_mapSlot_cases (s : State) (i j : Nat) (g : Slot → Slot) :
    (i = j ∧ j < s.nPorts ∧ (s.mapSlot i g).slot j = g (s.slot j)) ∨ (s.mapSlot i g).slot j = s.slot j := by
  by_cases h : i = j
  · subst h
    by_cases hj : i < s.nPorts
    · exact .inl ⟨rfl, hj, slot_mapSlot_self _ _ hj⟩
    · exact .inr (by rw [slot_of_ge s (by omega), slot_of_ge _ (by simpa using hj)])
  · exact .inr (slot_mapSlot_ne _ _ (Ne.symm h))

/-- A slot depends on the list of slots alone. -/
theorem slot_congr {s t : State} (h : t.slots = s.slots) (i : Nat) : t.slot i = s.slot i := by
  simp only [State.slot, h]

/-- Where every slot is rewritten, each one the block has is. -/
theorem slot_of_map {s t : State} {g : Slot → Slot} (h : t.slots = s.slots.map g) {i : Nat} (hi : i < s.nPorts) :
    t.slot i = g (s.slot i) := by
  have ht : i < t.nPorts := by rw [State.nPorts, h, List.length_map]; exact hi
  rw [slot_of_lt s hi, slot_of_lt t ht]
  simp only [h, List.getElem_map]
  rfl

/-- Rewriting a slot the block has is replacing it. -/
theorem mapSlot_eq_set (s : State) {i : Nat} (g : Slot → Slot) (h : i < s.nPorts) :
    s.mapSlot i g = { s with slots := s.slots.set i (g (s.slot i)) } := by
  rw [slot_of_lt _ h]
  simp only [State.mapSlot, State.mk.injEq, true_and, and_true]
  apply List.ext_getElem (by simp)
  intro n h1 h2
  simp only [List.getElem_modify, List.getElem_set]
  split
  · next e => subst e; rfl
  · rfl

end Sys2Proof.Machine
end

