-- ==== Sys2Proof/Laws/Framer.lean ====
section
/-! SUPPORT. What a framer step, a run and a feed can do, said once: the inversion of `framerStep`, its frame, and the
induction principles of runs and feeds. -/

namespace Sys2Proof.Machine

variable {p : Params} {ctrl : Word} {i ts : Nat}

/-! ### A framer row -/

theorem framerRow_selected {o : FramerOp} {m : String} {effect : Slot → FramerResult} {s : State}
    (h : i < s.nPorts) (ho : framerChoice s.par s.ctrl (s.slot i) = o) :
    framerRow o m effect i s =
      match effect (s.slot i) with
      | .wait => .next { s with out := .quiet }
      | .next f evs => .next (s.afterFramer i f evs) := by
  simp only [framerRow, h, ho, and_self, if_true]
  cases effect (s.slot i) with
  | wait => rfl
  | next f evs =>
    simp only [mapSlot_eq_set s _ h]
    rfl

theorem framerRow_refused {o : FramerOp} {m : String} {effect : Slot → FramerResult} {s : State}
    (h : ¬(i < s.nPorts ∧ framerChoice s.par s.ctrl (s.slot i) = o)) :
    framerRow o m effect i s = .refused (.notSelected m) := by
  simp only [framerRow, if_neg h, notSelected]

/-- 30 R78 selects a framer row exactly where the decoder chooses it. -/
theorem selectedIn_framer_iff {s : State} {o : FramerOp} :
    SelectedIn s (o.instr i ts) ↔ i < s.nPorts ∧ framerChoice s.par s.ctrl (s.slot i) = o := by
  unfold framerChoice framerOp
  simp only [← frameLen.eq_1, frameLen_eq_headerLen]
  have h2 := @opensWithSync_length s.par (s.slot i).buf
  have h3 := @syncAtHead_iff s.par (s.slot i).buf
  by_cases hs : opensWithSync s.par (s.slot i).buf
  · have h2 := h2 hs
    have h3 := (h3 h2).2 hs
    cases o <;> simp only [FramerOp.instr, SelectedIn, and_congr_right_iff] <;> intro hi <;>
      rcases hst : (s.slot i).st <;> cases hr : rejects s.par s.ctrl (s.slot i).buf <;>
      simp [hs, h3, show ¬(s.slot i).buf.length < 2 by omega]
    all_goals (repeat' split) <;> simp <;> omega
  · by_cases hl : (s.slot i).buf.length < 2
    · cases o <;> simp only [FramerOp.instr, SelectedIn, and_congr_right_iff] <;> intro hi <;>
        rcases hst : (s.slot i).st <;> cases hr : rejects s.par s.ctrl (s.slot i).buf <;> simp [hs, hl]
      all_goals first | omega | ((repeat' split) <;> simp <;> omega)
    · have h3 : syncAtHead s.par (s.slot i).buf = false := Bool.eq_false_iff.2 fun c => hs ((h3 (by omega)).1 c)
      cases o <;> simp only [FramerOp.instr, SelectedIn, and_congr_right_iff] <;> intro hi <;>
        rcases hst : (s.slot i).st <;> cases hr : rejects s.par s.ctrl (s.slot i).buf <;> simp [hs, hl, h3]
      all_goals first | omega | ((repeat' split) <;> simp <;> omega)

/-! ### The step -/

/-- Everything a framer step that does not wait can be: one of the seven operations of 41 R92 to R101, under its
condition. -/
theorem framerStep_cases {f f' : Slot} {evs : List Event} (h : framerStep p ctrl i ts f = .next f' evs) :
    (f.st = .seeking ∧ opensWithSync p f.buf ∧ f' = { f with st := .haveHeader } ∧ evs = [])
      ∨ (f.st = .seeking ∧ 2 ≤ f.buf.length ∧ ¬opensWithSync p f.buf
          ∧ f' = { f with buf := f.buf.drop 1, resyncDrops := inc f.resyncDrops } ∧ evs = [])
      ∨ (f.st = .haveHeader ∧ 5 ≤ f.buf.length ∧ p.maxLen.toNat < headerLen f.buf
          ∧ f' = { f with buf := f.buf.drop 1, st := .seeking, lenOvf := inc f.lenOvf }
          ∧ evs = [warning i ts f.buf .lenOverflow])
      ∨ (f.st = .haveHeader ∧ 5 ≤ f.buf.length ∧ headerLen f.buf ≤ p.maxLen.toNat
          ∧ 8 + headerLen f.buf ≤ f.buf.length ∧ f' = { f with st := .haveFrame } ∧ evs = [])
      ∨ (f.st = .haveFrame ∧ rejects p ctrl f.buf = false ∧ FramerResult.next f' evs = fEmit p i ts f)
      ∨ (f.st = .haveFrame ∧ rejects p ctrl f.buf = true ∧ FramerResult.next f' evs = fDiscard p i ts f)
      ∨ (f.st = .yielded ∧ f' = { f with st := .seeking } ∧ evs = []) := by
  unfold framerStep framerChoice framerOp at h
  simp only [← frameLen.eq_1, frameLen_eq_headerLen] at h
  have hst : f.st = .seeking ∨ f.st = .haveHeader ∨ f.st = .haveFrame ∨ f.st = .yielded := by cases f.st <;> simp
  rcases hst with hst | hst | hst | hst <;> simp only [hst] at h
  · by_cases h2 : f.buf.length < 2
    · simp [h2, fWaitSync] at h
    · cases hs : syncAtHead p f.buf with
      | true =>
        simp only [h2, hs, if_false, if_true, fSync, FramerResult.next.injEq] at h
        exact .inl ⟨hst, (syncAtHead_iff (by omega)).1 hs, h.1.symm, h.2.symm⟩
      | false =>
        simp only [h2, hs, if_false, Bool.false_eq_true, fDrop, Slot.drop, FramerResult.next.injEq] at h
        refine .inr (.inl ⟨hst, by omega, fun c => ?_, h.1.symm, h.2.symm⟩)
        exact Bool.false_ne_true (hs.symm.trans ((syncAtHead_iff (by omega)).2 c))
  · by_cases h5 : f.buf.length < 5
    · simp [h5, fWaitHdr] at h
    · by_cases hl : p.maxLen.toNat < headerLen f.buf
      · simp only [h5, hl, if_false, if_true, fLenOvf, Slot.drop, FramerResult.next.injEq] at h
        exact .inr (.inr (.inl ⟨hst, by omega, hl, h.1.symm, h.2.symm⟩))
      · by_cases hb : f.buf.length < 8 + headerLen f.buf
        · simp [h5, hl, hb, fWaitBody] at h
        · simp only [h5, hl, hb, if_false, fReady, FramerResult.next.injEq] at h
          exact .inr (.inr (.inr (.inl ⟨hst, by omega, by omega, by omega, h.1.symm, h.2.symm⟩)))
  · cases hr : rejects p ctrl f.buf with
    | true =>
      simp only [hr, if_true] at h
      exact .inr (.inr (.inr (.inr (.inr (.inl ⟨hst, rfl, h.symm⟩)))))
    | false =>
      simp only [hr, Bool.false_eq_true, if_false] at h
      exact .inr (.inr (.inr (.inr (.inl ⟨hst, rfl, h.symm⟩))))
  · simp only [fResume, FramerResult.next.injEq] at h
    exact .inr (.inr (.inr (.inr (.inr (.inr ⟨hst, h.1.symm, h.2.symm⟩)))))

/-- What no framer step writes (41 R109): the port table, the receive counters, and the queue, which takes the
returned events only. -/
theorem framerStep_frame {f f' : Slot} {evs : List Event} (h : framerStep p ctrl i ts f = .next f' evs) :
    f'.portCfg = f.portCfg ∧ f'.bound = f.bound ∧ f'.rxDgrams = f.rxDgrams ∧ f'.rxBytes = f.rxBytes
      ∧ f'.outq = f.outq := by
  rcases framerStep_cases h with ⟨-, -, rfl, -⟩ | ⟨-, -, -, rfl, -⟩ | ⟨-, -, -, rfl, -⟩ | ⟨-, -, -, -, rfl, -⟩ |
    ⟨-, -, h⟩ | ⟨-, -, h⟩ | ⟨-, rfl, -⟩
  all_goals first
    | exact ⟨rfl, rfl, rfl, rfl, rfl⟩
    | (simp only [fEmit, fDiscard, FramerResult.next.injEq] at h
       rw [h.1]
       exact ⟨rfl, rfl, rfl, rfl, rfl⟩)

/-! ### Runs and feeds -/

theorem runFramer_wait {f : Slot} {k : Nat} (h : framerStep p ctrl i ts f = .wait) :
    runFramer p ctrl i ts k f = f := by
  cases k with
  | zero => rfl
  | succ k => simp [runFramer, h]

theorem runFramer_next {f f' : Slot} {evs : List Event} {k : Nat} (h : framerStep p ctrl i ts f = .next f' evs) :
    runFramer p ctrl i ts (k + 1) f = runFramer p ctrl i ts k (f'.emit evs) := by
  simp [runFramer, h]

@[simp] theorem feed_nil (f : Slot) : feed p ctrl i ts [] f = f := rfl

@[simp] theorem feed_cons (b : Byte) (data : List Byte) (f : Slot) :
    feed p ctrl i ts (b :: data) f = feed p ctrl i ts data (runToQuiescence p ctrl i ts (f.append b)) := rfl

theorem feed_append (xs ys : List Byte) (f : Slot) :
    feed p ctrl i ts (xs ++ ys) f = feed p ctrl i ts ys (feed p ctrl i ts xs f) := by
  simp [feed, List.foldl_append]

/-- A property that a framer step keeps, a run keeps. -/
theorem runFramer_induction {P : Slot → Prop}
    (step : ∀ f f' evs, P f → framerStep p ctrl i ts f = .next f' evs → P (f'.emit evs)) (k : Nat) (f : Slot)
    (h : P f) : P (runFramer p ctrl i ts k f) := by
  induction k generalizing f with
  | zero => exact h
  | succ k ih =>
    cases hs : framerStep p ctrl i ts f with
    | wait => rw [runFramer_wait hs]; exact h
    | next f' evs => rw [runFramer_next hs]; exact ih _ (step f f' evs h hs)

/-- A property that an appended byte and a framer step keep, a feed keeps. -/
theorem feed_induction {P : Slot → Prop} (append : ∀ f b, P f → P (f.append b))
    (step : ∀ f f' evs, P f → framerStep p ctrl i ts f = .next f' evs → P (f'.emit evs)) (data : List Byte) (f : Slot)
    (h : P f) : P (feed p ctrl i ts data f) := by
  induction data generalizing f with
  | nil => exact h
  | cons b data ih => exact ih _ (runFramer_induction step _ _ (append f b h))

/-- What a feed does not write in its slot (41 R109). -/
theorem feed_frame (data : List Byte) (f : Slot) :
    (feed p ctrl i ts data f).portCfg = f.portCfg ∧ (feed p ctrl i ts data f).bound = f.bound
      ∧ (feed p ctrl i ts data f).rxDgrams = f.rxDgrams ∧ (feed p ctrl i ts data f).rxBytes = f.rxBytes :=
  feed_induction (P := fun g => g.portCfg = f.portCfg ∧ g.bound = f.bound ∧ g.rxDgrams = f.rxDgrams
      ∧ g.rxBytes = f.rxBytes)
    (fun _ _ h => h)
    (fun _ _ _ h hs => by
      obtain ⟨h1, h2, h3, h4, -⟩ := framerStep_frame hs
      simp only [Slot.portCfg_emit, Slot.bound_emit, Slot.rxDgrams_emit, Slot.rxBytes_emit, h1, h2, h3, h4]
      exact h)
    data f ⟨rfl, rfl, rfl, rfl⟩

/-- A feed only appends to its queue (10 R31). -/
theorem feed_outq (data : List Byte) (f : Slot) : ∃ evs, (feed p ctrl i ts data f).outq = f.outq ++ evs :=
  feed_induction (P := fun g => ∃ evs, g.outq = f.outq ++ evs)
    (fun _ _ h => h)
    (fun _ _ evs h hs => by
      obtain ⟨old, h⟩ := h
      refine ⟨old ++ evs, ?_⟩
      rw [Slot.outq_emit, (framerStep_frame hs).2.2.2.2, h, List.append_assoc])
    data f ⟨[], by simp⟩

end Sys2Proof.Machine
end

