-- ==== Sys2Proof/Laws/PerInstr.lean ====
section
/-! SUPPORT. The family `EncodedForm`, one lemma per constructor of `Instr`: the host access that a well-formed operation
encodes to lies inside the CSR window (20 R49), so the decoder never takes it for an access outside. -/

namespace Sys2Proof

/-- The stimulus is no host access, or one inside the window. -/
def Stimulus.InWindow : Stimulus → Prop
  | .read rel _ => 0 ≤ rel ∧ rel < windowSize
  | .write rel _ _ => 0 ≤ rel ∧ rel < windowSize
  | .dgram _ _ _ => True
  | .framer _ _ => True
  | .deliver _ => True
  | .reset => True

namespace Laws.EncodedForm

/-- What the family says of one operation. -/
def Statement (i : Instr) : Prop := ∀ n w, n ≤ 8 → i.wellFormed n w = true → (encode i).InWindow

theorem read_slot {n i field : Nat} (h8 : n ≤ 8) (hi : i < n) (hf : field < 0x40) :
    (wordAccess (slotOffset i field) none).InWindow := by
  simp only [wordAccess, slotOffset, Stimulus.InWindow, windowSize]
  omega

theorem write_slot {n i field : Nat} {v : Word} (h8 : n ≤ 8) (hi : i < n) (hf : field < 0x40) :
    (wordAccess (slotOffset i field) (some v)).InWindow := by
  simp only [wordAccess, slotOffset, Stimulus.InWindow, windowSize]
  omega

theorem fWaitSync (i ts : Nat) : Statement (.fWaitSync i ts) := fun _ _ _ _ => trivial

theorem fSync (i ts : Nat) : Statement (.fSync i ts) := fun _ _ _ _ => trivial

theorem fDrop (i ts : Nat) : Statement (.fDrop i ts) := fun _ _ _ _ => trivial

theorem fWaitHdr (i ts : Nat) : Statement (.fWaitHdr i ts) := fun _ _ _ _ => trivial

theorem fLenOvf (i ts : Nat) : Statement (.fLenOvf i ts) := fun _ _ _ _ => trivial

theorem fWaitBody (i ts : Nat) : Statement (.fWaitBody i ts) := fun _ _ _ _ => trivial

theorem fReady (i ts : Nat) : Statement (.fReady i ts) := fun _ _ _ _ => trivial

theorem fEmit (i ts : Nat) : Statement (.fEmit i ts) := fun _ _ _ _ => trivial

theorem fDiscard (i ts : Nat) : Statement (.fDiscard i ts) := fun _ _ _ _ => trivial

theorem fResume (i ts : Nat) : Statement (.fResume i ts) := fun _ _ _ _ => trivial

theorem dgramRouted (port : BitVec 16) (data : List Byte) (ts : Nat) : Statement (.dgramRouted port data ts) := fun _ _ _ _ => trivial

theorem dgramUnrouted (port : BitVec 16) (data : List Byte) (ts : Nat) : Statement (.dgramUnrouted port data ts) := fun _ _ _ _ => trivial

theorem rdParams : Statement (.rdParams) := fun _ _ _ _ => ⟨by decide, by decide⟩

theorem wrParams (v : Word) : Statement (.wrParams v) := fun _ _ _ _ => ⟨by decide, by decide⟩

theorem rdProto : Statement (.rdProto) := fun _ _ _ _ => ⟨by decide, by decide⟩

theorem wrProto (v : Word) : Statement (.wrProto v) := fun _ _ _ _ => ⟨by decide, by decide⟩

theorem rdCtrl : Statement (.rdCtrl) := fun _ _ _ _ => ⟨by decide, by decide⟩

theorem wrCtrl (v : Word) : Statement (.wrCtrl v) := fun _ _ _ _ => ⟨by decide, by decide⟩

theorem rdStatus : Statement (.rdStatus) := fun _ _ _ _ => ⟨by decide, by decide⟩

theorem wrStatus (v : Word) : Statement (.wrStatus v) := fun _ _ _ _ => ⟨by decide, by decide⟩

theorem rdUnrouted : Statement (.rdUnrouted) := fun _ _ _ _ => ⟨by decide, by decide⟩

theorem wrUnrouted (v : Word) : Statement (.wrUnrouted v) := fun _ _ _ _ => ⟨by decide, by decide⟩

theorem rdCmd : Statement (.rdCmd) := fun _ _ _ _ => ⟨by decide, by decide⟩

theorem cmdNone (hi : BitVec 30) : Statement (.cmdNone hi) := fun _ _ _ _ => ⟨by decide, by decide⟩

theorem cmdStart (hi : BitVec 30) : Statement (.cmdStart hi) := fun _ _ _ _ => ⟨by decide, by decide⟩

theorem cmdStop (hi : BitVec 30) : Statement (.cmdStop hi) := fun _ _ _ _ => ⟨by decide, by decide⟩

theorem cmdIllegal (hi : BitVec 30) : Statement (.cmdIllegal hi) := fun _ _ _ _ => ⟨by decide, by decide⟩

theorem rdPortCfg (i : Nat) : Statement (.rdPortCfg i) := by
  intro n w h8 h
  simp only [Instr.wellFormed, decide_eq_true_eq] at h
  simp only [encode, wordAccess, Stimulus.InWindow, windowSize]
  omega

theorem wrPortCfg (i : Nat) (v : Word) : Statement (.wrPortCfg i v) := by
  intro n w h8 h
  simp only [Instr.wellFormed, decide_eq_true_eq] at h
  simp only [encode, wordAccess, Stimulus.InWindow, windowSize]
  omega

theorem rdRxDgrams (i : Nat) : Statement (.rdRxDgrams i) :=
  fun _ _ h8 h => read_slot h8 (of_decide_eq_true h) (by decide)

theorem wrRxDgrams (i : Nat) (v : Word) : Statement (.wrRxDgrams i v) :=
  fun _ _ h8 h => write_slot h8 (of_decide_eq_true h) (by decide)

theorem rdRxBytes (i : Nat) : Statement (.rdRxBytes i) :=
  fun _ _ h8 h => read_slot h8 (of_decide_eq_true h) (by decide)

theorem wrRxBytes (i : Nat) (v : Word) : Statement (.wrRxBytes i v) :=
  fun _ _ h8 h => write_slot h8 (of_decide_eq_true h) (by decide)

theorem rdFramesOk (i : Nat) : Statement (.rdFramesOk i) :=
  fun _ _ h8 h => read_slot h8 (of_decide_eq_true h) (by decide)

theorem wrFramesOk (i : Nat) (v : Word) : Statement (.wrFramesOk i v) :=
  fun _ _ h8 h => write_slot h8 (of_decide_eq_true h) (by decide)

theorem rdResyncDrops (i : Nat) : Statement (.rdResyncDrops i) :=
  fun _ _ h8 h => read_slot h8 (of_decide_eq_true h) (by decide)

theorem wrResyncDrops (i : Nat) (v : Word) : Statement (.wrResyncDrops i v) :=
  fun _ _ h8 h => write_slot h8 (of_decide_eq_true h) (by decide)

theorem rdLenOvf (i : Nat) : Statement (.rdLenOvf i) :=
  fun _ _ h8 h => read_slot h8 (of_decide_eq_true h) (by decide)

theorem wrLenOvf (i : Nat) (v : Word) : Statement (.wrLenOvf i v) :=
  fun _ _ h8 h => write_slot h8 (of_decide_eq_true h) (by decide)

theorem rdTrailerErr (i : Nat) : Statement (.rdTrailerErr i) :=
  fun _ _ h8 h => read_slot h8 (of_decide_eq_true h) (by decide)

theorem wrTrailerErr (i : Nat) (v : Word) : Statement (.wrTrailerErr i v) :=
  fun _ _ h8 h => write_slot h8 (of_decide_eq_true h) (by decide)

theorem rdCsumErr (i : Nat) : Statement (.rdCsumErr i) :=
  fun _ _ h8 h => read_slot h8 (of_decide_eq_true h) (by decide)

theorem wrCsumErr (i : Nat) (v : Word) : Statement (.wrCsumErr i v) :=
  fun _ _ h8 h => write_slot h8 (of_decide_eq_true h) (by decide)

theorem rdDiscarded (i : Nat) : Statement (.rdDiscarded i) :=
  fun _ _ h8 h => read_slot h8 (of_decide_eq_true h) (by decide)

theorem wrDiscarded (i : Nat) (v : Word) : Statement (.wrDiscarded i v) :=
  fun _ _ h8 h => write_slot h8 (of_decide_eq_true h) (by decide)

theorem rdPstate (i : Nat) : Statement (.rdPstate i) :=
  fun _ _ h8 h => read_slot h8 (of_decide_eq_true h) (by decide)

theorem wrPstate (i : Nat) (v : Word) : Statement (.wrPstate i v) :=
  fun _ _ h8 h => write_slot h8 (of_decide_eq_true h) (by decide)

theorem rdBufLevel (i : Nat) : Statement (.rdBufLevel i) :=
  fun _ _ h8 h => read_slot h8 (of_decide_eq_true h) (by decide)

theorem wrBufLevel (i : Nat) (v : Word) : Statement (.wrBufLevel i v) :=
  fun _ _ h8 h => write_slot h8 (of_decide_eq_true h) (by decide)

theorem csrReserved (off : Nat) (wr : Option Word) : Statement (.csrReserved off wr) := by
  intro n w h8 h
  simp only [Instr.wellFormed, isReserved, Bool.and_eq_true, Bool.or_eq_true, decide_eq_true_eq] at h
  simp only [windowSize] at h
  cases wr <;> simp only [encode, wordAccess, Stimulus.InWindow, windowSize] <;> omega

theorem csrMisaligned (off width : Nat) (wr : Option Word) : Statement (.csrMisaligned off width wr) := by
  intro n w h8 h
  simp only [Instr.wellFormed, isMisaligned, Bool.and_eq_true, decide_eq_true_eq] at h
  simp only [windowSize] at h
  cases wr <;> simp only [encode, Stimulus.InWindow, windowSize] <;> omega

theorem deliver (i : Nat) : Statement (.deliver i) := fun _ _ _ _ => trivial

theorem reset : Statement (.reset) := fun _ _ _ _ => trivial

end Laws.EncodedForm

end Sys2Proof
end

