-- ==== Sys2Proof/Laws/Run.lean ====
section
/-! SUPPORT. Runs of the framer: quiescent states, and that bytes appended later do not change a step that is taken
(41 R107). -/

namespace Sys2Proof.Machine

variable {p : Params} {ctrl : Word} {i ts : Nat}

/-- A quiescent framer buffers at most `7 + MAX_LEN` bytes (41 R108). -/
theorem Slot.Quiet.length_le {f : Slot} (h : f.Quiet p) : f.buf.length ≤ 7 + p.maxLen.toNat := by
  rcases h with ⟨-, h⟩ | ⟨-, -, h | ⟨h1, h2⟩⟩ <;> omega

/-- A quiescent framer waits (41 R108). -/
theorem Slot.Quiet.framerStep {f : Slot} (h : f.Quiet p) : framerStep p ctrl i ts f = .wait := by
  unfold Machine.framerStep framerChoice framerOp
  simp only [← frameLen.eq_1, frameLen_eq_headerLen]
  rcases h with ⟨hs, h⟩ | ⟨hs, -, h | ⟨h1, h2⟩⟩ <;> simp only [hs]
  · simp only [show f.buf.length < 2 by omega, if_true, fWaitSync]
  · simp only [h, if_true, fWaitHdr]
  · by_cases h5 : f.buf.length < 5
    · simp only [h5, if_true, fWaitHdr]
    · simp only [h5, show ¬p.maxLen.toNat < headerLen f.buf by omega, h2, if_true, if_false, fWaitBody]

/-- A quiescent framer stays as it is through a run. -/
theorem Slot.Quiet.runToQuiescence {f : Slot} (h : f.Quiet p) : runToQuiescence p ctrl i ts f = f :=
  runFramer_wait h.framerStep

/-! ### Bytes appended later -/

theorem csumRx_append {buf : List Byte} (h : 8 + headerLen buf ≤ buf.length) (x : List Byte) :
    csumRx (buf ++ x) = csumRx buf := by
  have h5 : 5 ≤ buf.length := by omega
  unfold csumRx
  rw [frameLen_append h5, peek_append (by rw [frameLen_eq_headerLen]; omega)]

theorem csumCalc_append {buf : List Byte} (h : 8 + headerLen buf ≤ buf.length) (x : List Byte) :
    csumCalc (buf ++ x) = csumCalc buf := by
  have h5 : 5 ≤ buf.length := by omega
  unfold csumCalc
  rw [frameLen_append h5, slice_append (by rw [frameLen_eq_headerLen]; omega)]

theorem trailerOk_append {buf : List Byte} (h : 8 + headerLen buf ≤ buf.length) (x : List Byte) :
    trailerOk p (buf ++ x) = trailerOk p buf := by
  have h5 : 5 ≤ buf.length := by omega
  unfold trailerOk
  rw [frameLen_append h5, peek_append (by rw [frameLen_eq_headerLen]; omega),
    peek_append (by rw [frameLen_eq_headerLen]; omega)]

theorem csumOk_append {buf : List Byte} (h : 8 + headerLen buf ≤ buf.length) (x : List Byte) :
    csumOk (buf ++ x) = csumOk buf := by
  unfold csumOk
  rw [csumCalc_append h, csumRx_append h]

theorem rejects_append {buf : List Byte} (h : 8 + headerLen buf ≤ buf.length) (x : List Byte) :
    rejects p ctrl (buf ++ x) = rejects p ctrl buf := by
  unfold rejects
  rw [csumOk_append h, trailerOk_append h]

theorem warning_append {buf : List Byte} (h : 5 ≤ buf.length) (x : List Byte) (code : WarnCode) :
    warning i ts (buf ++ x) code = warning i ts buf code := by
  unfold warning
  rw [peek_append (by omega), lengthField_append h]

theorem frameFields_append {buf : List Byte} (h : 8 + headerLen buf ≤ buf.length) (x : List Byte) :
    frameFields p (buf ++ x) = frameFields p buf := by
  have h5 : 5 ≤ buf.length := by omega
  unfold frameFields
  rw [csumOk_append h, trailerOk_append h, csumCalc_append h, csumRx_append h, frameLen_append h5,
    lengthField_append h5, peek_append (by omega), slice_append (by rw [frameLen_eq_headerLen]; omega)]

theorem mismatchWarnings_append {buf : List Byte} (h : 8 + headerLen buf ≤ buf.length) (x : List Byte) :
    mismatchWarnings p i ts (buf ++ x) = mismatchWarnings p i ts buf := by
  have h5 : 5 ≤ buf.length := by omega
  unfold mismatchWarnings
  rw [csumOk_append h, trailerOk_append h, warning_append h5, warning_append h5]

theorem countMismatches_append {f : Slot} (h : 8 + headerLen f.buf ≤ f.buf.length) (x : List Byte) :
    countMismatches p { f with buf := f.buf ++ x } = { countMismatches p f with buf := f.buf ++ x } := by
  unfold countMismatches
  simp only [csumOk_append h, trailerOk_append h]

theorem fEmit_append {f f' : Slot} {evs : List Event} (hw : 8 + headerLen f.buf ≤ f.buf.length)
    (h : fEmit p i ts f = .next f' evs) (x : List Byte) :
    fEmit p i ts { f with buf := f.buf ++ x } = .next { f' with buf := f'.buf ++ x } evs := by
  have hd : (f.buf ++ x).drop (8 + frameLen f.buf) = f.buf.drop (8 + frameLen f.buf) ++ x :=
    List.drop_append_of_le_length (by rw [frameLen_eq_headerLen]; omega)
  unfold fEmit at h ⊢
  rw [FramerResult.next.injEq] at h
  rw [← h.1, ← h.2]
  simp only [frameMsg, countMismatches_append hw, mismatchWarnings_append hw, frameFields_append hw,
    frameLen_append (show 5 ≤ f.buf.length by omega), Slot.drop, hd, buf_countMismatches]
  rfl

theorem fDiscard_append {f f' : Slot} {evs : List Event} (hw : 8 + headerLen f.buf ≤ f.buf.length)
    (h : fDiscard p i ts f = .next f' evs) (x : List Byte) :
    fDiscard p i ts { f with buf := f.buf ++ x } = .next { f' with buf := f'.buf ++ x } evs := by
  have hd : (f.buf ++ x).drop 1 = f.buf.drop 1 ++ x := List.drop_append_of_le_length (by omega)
  unfold fDiscard at h ⊢
  rw [FramerResult.next.injEq] at h
  rw [← h.1, ← h.2]
  simp only [countMismatches_append hw, mismatchWarnings_append hw, warning_append (show 5 ≤ f.buf.length by omega),
    Slot.drop, hd, buf_countMismatches]

/-- A step that a framer takes, it takes with more bytes behind its buffer too, and they stay behind (41 R107). -/
theorem framerStep_append {f f' : Slot} {evs : List Event} (hc : f.FrameComplete)
    (h : framerStep p ctrl i ts f = .next f' evs) (x : List Byte) :
    framerStep p ctrl i ts { f with buf := f.buf ++ x } = .next { f' with buf := f'.buf ++ x } evs := by
  have hl : ∀ n, n ≤ f.buf.length → (f.buf ++ x).drop n = f.buf.drop n ++ x := fun n hn =>
    List.drop_append_of_le_length hn
  unfold framerStep framerChoice framerOp
  simp only [← frameLen.eq_1]
  rcases framerStep_cases h with ⟨hs, ho, rfl, rfl⟩ | ⟨hs, h2, ho, rfl, rfl⟩ | ⟨hs, h5, hm, rfl, rfl⟩ |
    ⟨hs, h5, hm, hb, rfl, rfl⟩ | ⟨hs, hr, h⟩ | ⟨hs, hr, h⟩ | ⟨hs, rfl, rfl⟩ <;> simp only [hs]
  · have h2 := opensWithSync_length ho
    have ho' : syncAtHead p (f.buf ++ x) = true := by
      rw [← (syncAtHead_iff h2).2 ho]
      unfold syncAtHead
      rw [peek_append (by omega), peek_append (by omega)]
    simp only [ho', show ¬(f.buf ++ x).length < 2 by simp; omega, if_false, if_true, fSync]
  · have ho' : syncAtHead p (f.buf ++ x) = false := by
      rw [← Bool.eq_false_iff.2 fun c => ho ((syncAtHead_iff h2).1 c)]
      unfold syncAtHead
      rw [peek_append (by omega), peek_append (by omega)]
    simp only [ho', show ¬(f.buf ++ x).length < 2 by simp; omega, if_false, Bool.false_eq_true, fDrop, Slot.drop,
      hl 1 (by omega)]
  · simp only [frameLen_append h5, frameLen_eq_headerLen, hm, show ¬(f.buf ++ x).length < 5 by simp; omega, if_false,
      if_true, fLenOvf, Slot.drop, hl 1 (by omega), warning_append h5]
  · simp only [frameLen_append h5, frameLen_eq_headerLen, show ¬p.maxLen.toNat < headerLen f.buf by omega,
      show ¬(f.buf ++ x).length < 5 by simp; omega, show ¬(f.buf ++ x).length < 8 + headerLen f.buf by simp; omega,
      if_false, fReady]
  · have hw := hc hs
    simp only [rejects_append hw, hr, Bool.false_eq_true, if_false]
    simpa only [hs] using fEmit_append hw h.symm x
  · have hw := hc hs
    simp only [rejects_append hw, hr, if_true]
    simpa only [hs] using fDiscard_append hw h.symm x
  · simp only [fResume]

end Sys2Proof.Machine
end

