-- ==== Sys2Proof/Laws/Select.lean ====
section
/-! SUPPORT. What the decoder of host accesses answers: the register at each offset of the map, and the selection of a
word access, of a refused one, and of one outside the window. -/

namespace Sys2Proof.Machine

/-! ### The register map -/

theorem regAt_portCfg {n i : Nat} (h : i < n) (h8 : i < 8) : regAt n (0x040 + 4 * i) = .portCfg i := by
  have e : (0x040 + 4 * i - 0x040) / 4 = i := by omega
  unfold regAt
  rw [e]
  simp only [show ¬(0x040 + 4 * i = 0x000) by omega, show ¬(0x040 + 4 * i = 0x004) by omega,
    show ¬(0x040 + 4 * i = 0x008) by omega, show ¬(0x040 + 4 * i = 0x00C) by omega,
    show ¬(0x040 + 4 * i = 0x010) by omega, show ¬(0x040 + 4 * i = 0x014) by omega, if_false]
  rw [if_pos ⟨by omega, by omega, h⟩]

theorem regAt_slotReg {n i field : Nat} (h : i < n) (hf : field < 0x40) :
    regAt n (slotOffset i field) = slotReg i field := by
  unfold slotOffset
  have e : (0x100 + 0x40 * i + field - 0x100) / 0x40 = i := by omega
  have e' : (0x100 + 0x40 * i + field - 0x100) % 0x40 = field := by omega
  unfold regAt
  rw [e, e']
  simp only [show ¬(0x100 + 0x40 * i + field = 0x000) by omega, show ¬(0x100 + 0x40 * i + field = 0x004) by omega,
    show ¬(0x100 + 0x40 * i + field = 0x008) by omega, show ¬(0x100 + 0x40 * i + field = 0x00C) by omega,
    show ¬(0x100 + 0x40 * i + field = 0x010) by omega, show ¬(0x100 + 0x40 * i + field = 0x014) by omega, if_false]
  rw [if_neg (by omega), if_pos ⟨by omega, h⟩]

/-- The map's reserved offsets are those that the decoder gives no register (30 R70, R77). -/
theorem slotReg_eq_reserved_iff {i field : Nat} (h4 : field % 4 = 0) (hf : field < 0x40) :
    slotReg i field = .reserved ↔ 0x28 ≤ field := by
  obtain ⟨k, rfl⟩ : ∃ k, field = 4 * k := ⟨field / 4, by omega⟩
  have hk : k < 16 := by omega
  interval_cases k <;> simp [slotReg]

theorem regAt_eq_reserved_iff {n off : Nat} (h4 : off % 4 = 0) (hw : off < windowSize) :
    regAt n off = .reserved ↔ isReserved n off = true := by
  simp only [windowSize] at hw
  by_cases hlo : off < 0x018
  · obtain ⟨k, rfl⟩ : ∃ k, off = 4 * k := ⟨off / 4, by omega⟩
    have hk : k < 6 := by omega
    interval_cases k <;> simp [regAt, isReserved, windowSize] <;> omega
  · have e : regAt n off =
        if 0x040 ≤ off ∧ off < 0x060 ∧ (off - 0x040) / 4 < n then .portCfg ((off - 0x040) / 4)
        else if 0x100 ≤ off ∧ (off - 0x100) / 0x40 < n then
          slotReg ((off - 0x100) / 0x40) ((off - 0x100) % 0x40)
        else .reserved := by
      unfold regAt
      simp only [show ¬(off = 0x000) by omega, show ¬(off = 0x004) by omega, show ¬(off = 0x008) by omega,
        show ¬(off = 0x00C) by omega, show ¬(off = 0x010) by omega, show ¬(off = 0x014) by omega, if_false]
    rw [e]
    unfold isReserved windowSize
    simp only [Bool.and_eq_true, Bool.or_eq_true, decide_eq_true_eq, beq_iff_eq]
    split
    · next h => simp; omega
    · split
      · next h =>
        rw [slotReg_eq_reserved_iff (by omega) (Nat.mod_lt _ (by omega))]
        omega
      · next h h' => simp; omega

/-! ### Selections of host accesses -/

theorem decodeCsr_word {n off : Nat} {wr : Option Word} (hw : off < windowSize) (h4 : off % 4 = 0) :
    decodeCsr n off 4 wr = .op (match wr with
      | none => readOp off (regAt n off)
      | some v => writeOp off (regAt n off) v) := by
  have h1 : ¬((off : Int) < 0 ∨ (windowSize : Int) ≤ off) := by omega
  have h2 : ¬(off % 4 ≠ 0 ∨ 4 ≠ 4) := by omega
  unfold decodeCsr
  rw [if_neg h1]
  simp only [Int.toNat_natCast, if_neg h2]
  cases wr <;> rfl

theorem decodeCsr_misaligned {n off width : Nat} {wr : Option Word} (hw : off < windowSize)
    (h : off % 4 ≠ 0 ∨ width ≠ 4) : decodeCsr n off width wr = .op (.csrMisaligned off width wr) := by
  have h1 : ¬((off : Int) < 0 ∨ (windowSize : Int) ≤ off) := by omega
  unfold decodeCsr
  rw [if_neg h1]
  simp only [Int.toNat_natCast, if_pos h]

theorem decodeCsr_outside {n width : Nat} {rel : Int} {wr : Option Word} (h : rel < 0 ∨ (windowSize : Int) ≤ rel) :
    decodeCsr n rel width wr = .rejected .outsideWindow := by
  unfold decodeCsr
  rw [if_pos h]

/-- A host access is selected by its offset alone: `CSR_BASE` plays no part (20 R49). -/
theorem select_memRead (s : State) (base off width : Nat) :
    s.select (memRead base (base + off) width) = decodeCsr s.nPorts off width none := by
  simp [memRead, State.select]

theorem select_memWrite (s : State) (base off width : Nat) (v : Word) :
    s.select (memWrite base (base + off) width v) = decodeCsr s.nPorts off width (some v) := by
  simp [memWrite, State.select]

theorem select_readWord (s : State) (base : Nat) {off : Nat} (hw : off < windowSize) (h4 : off % 4 = 0) :
    s.select (memRead base (base + off) 4) = .op (readOp off (regAt s.nPorts off)) := by
  rw [select_memRead, decodeCsr_word hw h4]

theorem select_writeWord (s : State) (base : Nat) {off : Nat} (v : Word) (hw : off < windowSize) (h4 : off % 4 = 0) :
    s.select (memWrite base (base + off) 4 v) = .op (writeOp off (regAt s.nPorts off) v) := by
  rw [select_memWrite, decodeCsr_word hw h4]

theorem select_readSlot (s : State) {i field : Nat} (h : i < s.nPorts) (h8 : i < 8) (hf : field < 0x40)
    (h4 : field % 4 = 0) (base : Nat) :
    s.select (memRead base (base + (0x100 + 0x40 * i + field)) 4) =
      .op (readOp (slotOffset i field) (slotReg i field)) := by
  rw [select_readWord s base (by simp [windowSize]; omega) (by omega), show 0x100 + 0x40 * i + field
    = slotOffset i field from rfl, regAt_slotReg h hf]

theorem select_writeSlot (s : State) {i field : Nat} (h : i < s.nPorts) (h8 : i < 8) (hf : field < 0x40)
    (h4 : field % 4 = 0) (base : Nat) (v : Word) :
    s.select (memWrite base (base + (0x100 + 0x40 * i + field)) 4 v) =
      .op (writeOp (slotOffset i field) (slotReg i field) v) := by
  rw [select_writeWord s base v (by simp [windowSize]; omega) (by omega), show 0x100 + 0x40 * i + field
    = slotOffset i field from rfl, regAt_slotReg h hf]

theorem select_wordAccess (s : State) {off : Nat} (wr : Option Word) (hw : off < windowSize) (h4 : off % 4 = 0) :
    s.select (wordAccess off wr) = .op (match wr with
      | none => readOp off (regAt s.nPorts off)
      | some v => writeOp off (regAt s.nPorts off) v) := by
  have h := decodeCsr_word (n := s.nPorts) (wr := wr) hw h4
  cases wr <;> exact h

/-- A reserved offset is an aligned offset of the window (30 R70). -/
theorem isReserved_bounds {n off : Nat} (h : isReserved n off = true) : off % 4 = 0 ∧ off < windowSize := by
  simp only [isReserved, Bool.and_eq_true, Bool.or_eq_true, decide_eq_true_eq, beq_iff_eq] at h
  simp only [windowSize] at *
  omega

/-! ### Commands -/

theorem slotReg_ne_cmd (i field : Nat) : slotReg i field ≠ .cmd := by
  unfold slotReg
  repeat' split
  all_goals exact fun h => CsrReg.noConfusion h

/-- `CMD` stands at one offset only (30 R70). -/
theorem regAt_eq_cmd {n off : Nat} (h : regAt n off = .cmd) : off = 0x00C := by
  by_contra hne
  unfold regAt at h
  simp only [hne, if_false] at h
  split_ifs at h
  exact absurd h (slotReg_ne_cmd _ _)

/-- The command a `CMD` write issues is told by its two low bits (30 R73). -/
theorem cmdOp_cases (v : Word) :
    (v.toNat % 4 = 0 ∧ cmdOp v = .cmdNone (v.extractLsb' 2 30))
      ∨ (v.toNat % 4 = 1 ∧ cmdOp v = .cmdStart (v.extractLsb' 2 30))
      ∨ (v.toNat % 4 = 2 ∧ cmdOp v = .cmdStop (v.extractLsb' 2 30))
      ∨ (v.toNat % 4 = 3 ∧ cmdOp v = .cmdIllegal (v.extractLsb' 2 30)) := by
  have hc (k : BitVec 2) : v.extractLsb' 0 2 = k ↔ v.toNat % 4 = k.toNat := by
    rw [← BitVec.toNat_inj]; simp
  have h4 : v.toNat % 4 = 0 ∨ v.toNat % 4 = 1 ∨ v.toNat % 4 = 2 ∨ v.toNat % 4 = 3 := by omega
  unfold cmdOp
  simp only [hc]
  rcases h4 with h | h | h | h <;> simp [h]

theorem toNat_cmdData (hi : BitVec 30) (c : BitVec 2) : (cmdData hi c).toNat = 4 * hi.toNat + c.toNat := by
  show (hi ++ c : BitVec (30 + 2)).toNat = _
  rw [BitVec.toNat_append, Nat.shiftLeft_eq, Nat.mul_comm, ← Nat.two_pow_add_eq_or_of_lt c.isLt]

/-- Encoding a command and decoding the data gives it back (30 R73). -/
theorem cmdOp_cmdData (hi : BitVec 30) (c : BitVec 2) :
    cmdOp (cmdData hi c) = if c = 0 then .cmdNone hi else if c = 1 then .cmdStart hi
      else if c = 2 then .cmdStop hi else .cmdIllegal hi := by
  have h1 : (cmdData hi c).extractLsb' 0 2 = c := by
    apply BitVec.eq_of_toNat_eq
    rw [BitVec.extractLsb'_toNat, toNat_cmdData, Nat.shiftRight_zero]
    have := c.isLt
    omega
  have h2 : (cmdData hi c).extractLsb' 2 30 = hi := by
    apply BitVec.eq_of_toNat_eq
    rw [BitVec.extractLsb'_toNat, toNat_cmdData, Nat.shiftRight_eq_div_pow]
    have := c.isLt
    have := hi.isLt
    omega
  unfold cmdOp
  rw [h1, h2]

end Sys2Proof.Machine
end

