-- ==== Sys2Proof/Laws/Step.lean ====
section
/-! SUPPORT. Everything one step can do, said once: `step_cases`, which later proofs cite in place of unfolding `step`,
`select` and `exec`. -/

namespace Sys2Proof.Machine

/-- Everything a step can do to a state `s`: nothing but an answer, one register written, a command, one framer step,
a datagram, a delivery, or reset. The stimulus taken stands at the head of the inbox. -/
inductive Stepped (s : State) : State → Prop
  /-- Nothing but the interface output: a read, an ignored write, a refused access, an idle step, a wait. -/
  | answered (o : Out) (quiet : ∀ i e, o ≠ .delivered i e) : Stepped s ({ s with inbox := s.inbox.tail }.drive o)
  /-- A write of `CTRL`. -/
  | wrCtrl (v : Word) (head : s.inbox.head? = some (.write 0x008 4 v)) :
    Stepped s ({ s with inbox := s.inbox.tail, ctrl := v &&& ctrlMask }.drive .writeOk)
  /-- A write of `STATUS`. -/
  | wrStatus (v : Word) (head : s.inbox.head? = some (.write 0x010 4 v)) :
    Stepped s ({ s with inbox := s.inbox.tail, status := s.status.cleared v }.drive .writeOk)
  /-- A write of `PORT_CFG[i]`. -/
  | wrPortCfg (rel : Int) (i : Nat) (v : Word) (head : s.inbox.head? = some (.write rel 4 v)) (ne : rel ≠ 0x00C) :
    Stepped s (({ s with inbox := s.inbox.tail }.mapSlot i fun f => { f with portCfg := v &&& portCfgMask }).drive .writeOk)
  /-- An illegal command. -/
  | cmdIllegal (v : Word) (head : s.inbox.head? = some (.write 0x00C 4 v)) (code : v.toNat % 4 = 3) :
    Stepped s ({ s with inbox := s.inbox.tail }.commandError.drive .writeOk)
  /-- START. -/
  | start (v : Word) (head : s.inbox.head? = some (.write 0x00C 4 v)) (code : v.toNat % 4 = 1) :
    Stepped s ({ s with inbox := s.inbox.tail }.startCommand.drive .writeOk)
  /-- STOP. -/
  | stop (v : Word) (head : s.inbox.head? = some (.write 0x00C 4 v)) (code : v.toNat % 4 = 2) :
    Stepped s ({ s with inbox := s.inbox.tail }.stopCommand.drive .writeOk)
  /-- One framer step that does not wait. -/
  | framer (i ts : Nat) (f : Slot) (evs : List Event) (head : s.inbox.head? = some (.framer i ts)) (lt : i < s.nPorts)
    (taken : framerStep s.par s.ctrl i (s.stamp ts) (s.slot i) = .next f evs) :
    Stepped s (({ s with inbox := s.inbox.tail }.mapSlot i fun _ => f.emit evs).drive .quiet)
  /-- A datagram that routes to slot `i`. -/
  | routed (port : BitVec 16) (data : List Byte) (ts i : Nat) (head : s.inbox.head? = some (.dgram port data ts))
    (route : s.ingressSlot port = some i) :
    Stepped s (({ s with inbox := s.inbox.tail }.mapSlot i (receive s.par s.ctrl i (s.stamp ts) data)).drive .quiet)
  /-- A datagram that routes nowhere. -/
  | unrouted (port : BitVec 16) (data : List Byte) (ts : Nat) (head : s.inbox.head? = some (.dgram port data ts))
    (route : s.ingressSlot port = none) :
    Stepped s ({ s with inbox := s.inbox.tail, unrouted := inc s.unrouted }.drive .quiet)
  /-- A delivery. -/
  | deliver (i : Nat) (e : Event) (rest : List Event) (head : s.inbox.head? = some (.deliver i)) (lt : i < s.nPorts)
    (queued : (s.slot i).outq = e :: rest) :
    Stepped s (({ s with inbox := s.inbox.tail }.mapSlot i fun f => { f with outq := rest }).drive (.delivered i e))
  /-- Reset. -/
  | reset (head : s.inbox.head? = some .reset) :
    Stepped s { s with
      inbox := s.inbox.tail, slots := s.slots.map fun _ => Slot.reset, ctrl := 0, status := Status.reset
      unrouted := 0, attempt := 0, out := .quiet }

/-! ### The framer rows -/

/-- A framer row, where it is selected, is `FramerStep` applied to the slot (41 R90, R102). -/
theorem exec_framerChoice {s : State} {i : Nat} (ts : Nat) (h : i < s.nPorts) :
    exec ((framerChoice s.par s.ctrl (s.slot i)).instr i ts) s =
      match framerStep s.par s.ctrl i ts (s.slot i) with
      | .wait => .next (s.drive .quiet)
      | .next f evs => .next ((s.mapSlot i fun _ => f.emit evs).drive .quiet) := by
  unfold framerStep
  cases ho : framerChoice s.par s.ctrl (s.slot i) <;>
    simp only [FramerOp.instr, exec, execFWaitSync, execFSync, execFDrop, execFWaitHdr, execFLenOvf, execFWaitBody,
      execFReady, execFEmit, execFDiscard, execFResume, framerRow, h, ho, and_self, if_true] <;> rfl

theorem exec_framerChoice_wait {s : State} {i ts : Nat} (h : i < s.nPorts)
    (hs : framerStep s.par s.ctrl i ts (s.slot i) = .wait) :
    exec ((framerChoice s.par s.ctrl (s.slot i)).instr i ts) s = .next (s.drive .quiet) := by
  rw [exec_framerChoice ts h, hs]

theorem exec_framerChoice_next {s : State} {i ts : Nat} {f : Slot} {evs : List Event} (h : i < s.nPorts)
    (hs : framerStep s.par s.ctrl i ts (s.slot i) = .next f evs) :
    exec ((framerChoice s.par s.ctrl (s.slot i)).instr i ts) s
      = .next ((s.mapSlot i fun _ => f.emit evs).drive .quiet) := by
  rw [exec_framerChoice ts h, hs]

/-! ### Host accesses -/

/-- A read of any register answers a value and changes nothing (20 R47). -/
theorem exec_readOp {s : State} {off : Nat} (hw : off < windowSize) (h4 : off % 4 = 0) :
    ∃ v, exec (readOp off (regAt s.nPorts off)) s = .next (s.drive (.readOk v)) := by
  cases hreg : regAt s.nPorts off with
  | reserved => exact ⟨0, by simp [readOp, exec, execCsrReserved, hreg, h4, hw, readAnswer]⟩
  | _ => exact ⟨_, rfl⟩

theorem exec_misaligned {s : State} {off width : Nat} {wr : Option Word} (hw : off < windowSize)
    (h : off % 4 ≠ 0 ∨ width ≠ 4) : exec (.csrMisaligned off width wr) s = .next (s.drive .busErr) := by
  simp only [exec, execCsrMisaligned, hw, h, and_self, if_true]

/-- Everything a word write at an offset of the window can do, but for a command. -/
theorem exec_writeOp {s : State} {off : Nat} {v : Word} (hw : off < windowSize) (h4 : off % 4 = 0)
    (hc : regAt s.nPorts off ≠ .cmd) :
    exec (writeOp off (regAt s.nPorts off) v) s = .next (s.drive .writeOk)
      ∨ (regAt s.nPorts off = .ctrl
          ∧ exec (writeOp off (regAt s.nPorts off) v) s = .next ({ s with ctrl := v &&& ctrlMask }.drive .writeOk))
      ∨ (regAt s.nPorts off = .status
          ∧ exec (writeOp off (regAt s.nPorts off) v) s
            = .next ({ s with status := s.status.cleared v }.drive .writeOk))
      ∨ ∃ i, exec (writeOp off (regAt s.nPorts off) v) s
          = .next ((s.mapSlot i fun f => { f with portCfg := v &&& portCfgMask }).drive .writeOk) := by
  cases hreg : regAt s.nPorts off with
  | cmd => exact absurd hreg hc
  | ctrl => exact .inr (.inl ⟨rfl, rfl⟩)
  | status => exact .inr (.inr (.inl ⟨rfl, rfl⟩))
  | portCfg i => exact .inr (.inr (.inr ⟨i, rfl⟩))
  | reserved => exact .inl (by simp [writeOp, exec, execCsrReserved, hreg, h4, hw, writeIgnored])
  | _ => exact .inl rfl

theorem slotReg_ne_global (i field : Nat) : slotReg i field ≠ .ctrl ∧ slotReg i field ≠ .status := by
  unfold slotReg
  repeat' split
  all_goals exact ⟨fun h => CsrReg.noConfusion h, fun h => CsrReg.noConfusion h⟩

theorem regAt_eq_ctrl {n off : Nat} (h : regAt n off = .ctrl) : off = 0x008 := by
  by_contra hne
  unfold regAt at h
  simp only [hne, if_false] at h
  split_ifs at h
  exact (slotReg_ne_global _ _).1 h

theorem regAt_eq_status {n off : Nat} (h : regAt n off = .status) : off = 0x010 := by
  by_contra hne
  unfold regAt at h
  simp only [hne, if_false] at h
  split_ifs at h
  exact (slotReg_ne_global _ _).2 h

/-! ### The step -/

/-- Everything a step can do: what later proofs cite. -/
theorem step_cases {s t : State} (h : step s = .next t) : Stepped s t := by
  have done {u : State} (hu : step s = .next u) (hs : Stepped s u) : Stepped s t := by
    rw [h] at hu
    cases hu
    exact hs
  clear h
  cases hin : s.inbox with
  | nil =>
    refine done (u := s.drive .quiet) (by simp [step, hin]) ?_
    have := Stepped.answered (s := s) .quiet (by simp)
    rwa [show { s with inbox := s.inbox.tail } = s by cases s; simp_all] at this
  | cons x rest =>
    have htail : s.inbox.tail = rest := by rw [hin]; rfl
    have hhead : s.inbox.head? = some x := by rw [hin]; rfl
    have ans (o : Out) (ho : ∀ i e, o ≠ .delivered i e) (h : step s = .next ({ s with inbox := rest }.drive o)) :
        Stepped s t := done h (by rw [← htail]; exact .answered o ho)
    cases x with
    | read rel width =>
      by_cases hout : rel < 0 ∨ (windowSize : Int) ≤ rel
      · exact ans .noResponse (by simp) (by
          simp only [step, hin, State.select, decodeCsr_outside hout, State.unselected])
      · obtain ⟨off, rfl⟩ : ∃ off : Nat, rel = off := ⟨rel.toNat, by omega⟩
        have hw : off < windowSize := by omega
        by_cases hm : off % 4 ≠ 0 ∨ width ≠ 4
        · exact ans .busErr (by simp) (by
            simp only [step, hin, State.select, decodeCsr_misaligned hw hm, exec_misaligned hw hm])
        · obtain rfl : width = 4 := by omega
          obtain ⟨v, hv⟩ := exec_readOp (s := { s with inbox := rest }) hw (by omega)
          exact ans (.readOk v) (by simp) (by
            simp only [step, hin, State.select, decodeCsr_word hw (show off % 4 = 0 by omega)]; exact hv)
    | write rel width v =>
      by_cases hout : rel < 0 ∨ (windowSize : Int) ≤ rel
      · exact ans .noResponse (by simp) (by
          simp only [step, hin, State.select, decodeCsr_outside hout, State.unselected])
      · obtain ⟨off, rfl⟩ : ∃ off : Nat, rel = off := ⟨rel.toNat, by omega⟩
        have hw : off < windowSize := by omega
        by_cases hm : off % 4 ≠ 0 ∨ width ≠ 4
        · exact ans .busErr (by simp) (by
            simp only [step, hin, State.select, decodeCsr_misaligned hw hm, exec_misaligned hw hm])
        · obtain rfl : width = 4 := by omega
          have h4 : off % 4 = 0 := by omega
          have hstep : step s = exec (writeOp off (regAt s.nPorts off) v) { s with inbox := rest } := by
            simp only [step, hin, State.select, decodeCsr_word hw h4]
          by_cases hc : regAt s.nPorts off = .cmd
          · have h12 := regAt_eq_cmd hc
            subst h12
            rw [hc] at hstep
            rw [show writeOp 0x00C .cmd v = cmdOp v from rfl] at hstep
            rcases cmdOp_cases v with ⟨hv, e⟩ | ⟨hv, e⟩ | ⟨hv, e⟩ | ⟨hv, e⟩ <;> rw [e] at hstep
            · exact ans .writeOk (by simp) hstep
            · exact done (hstep) (by rw [← htail]; exact .start v hhead hv)
            · exact done (hstep) (by rw [← htail]; exact .stop v hhead hv)
            · exact done (hstep) (by rw [← htail]; exact .cmdIllegal v hhead hv)
          · rcases exec_writeOp (s := { s with inbox := rest }) (v := v) hw h4 hc with h | ⟨hr, h⟩ | ⟨hr, h⟩ | ⟨i, h⟩
            · exact ans .writeOk (by simp) (hstep.trans h)
            · have := regAt_eq_ctrl hr
              subst this
              exact done (hstep.trans h) (by rw [← htail]; exact .wrCtrl v hhead)
            · have := regAt_eq_status hr
              subst this
              exact done (hstep.trans h) (by rw [← htail]; exact .wrStatus v hhead)
            · have hne : (off : Int) ≠ 0x00C := fun e => hc (by rw [show off = 0x00C by omega]; rfl)
              exact done (hstep.trans h) (by rw [← htail]; exact .wrPortCfg off i v hhead hne)
    | dgram port data ts =>
      cases hr : s.ingressSlot port with
      | some i =>
        have hr' : { s with inbox := rest }.ingressSlot port = some i := hr
        refine done ?_ (.routed port data ts i hhead hr)
        simp only [step, hin, State.select, hr, exec, execDgramRouted, hr', List.tail_cons]
      | none =>
        have hr' : { s with inbox := rest }.ingressSlot port = none := hr
        refine done ?_ (.unrouted port data ts hhead hr)
        simp only [step, hin, State.select, hr, exec, execDgramUnrouted, hr', List.tail_cons]
    | framer i ts =>
      by_cases h : i < s.nPorts
      · have hstep : step s = exec ((framerChoice s.par s.ctrl (s.slot i)).instr i (s.stamp ts))
            { s with inbox := rest } := by
          simp only [step, hin, State.select, h, if_true]
        cases hs : framerStep s.par s.ctrl i (s.stamp ts) (s.slot i) with
        | wait =>
          exact ans .quiet (by simp) (hstep.trans (exec_framerChoice_wait (s := { s with inbox := rest }) h hs))
        | next f evs =>
          exact done (hstep.trans (exec_framerChoice_next (s := { s with inbox := rest }) h hs))
            (by rw [← htail]; exact .framer i ts f evs hhead h hs)
      · exact ans .quiet (by simp) (by simp only [step, hin, State.select, if_neg h, State.unselected])
    | deliver i =>
      by_cases h : s.nPorts ≤ i
      · exact ans .quiet (by simp) (by simp only [step, hin, State.select, if_pos h, State.unselected])
      · cases hq : (s.slot i).outq with
        | nil =>
          exact ans .quiet (by simp) (by
            simp only [step, hin, State.select, if_neg h, hq, if_true, State.unselected])
        | cons e evs =>
          have hq' : ({ s with inbox := rest }.slot i).outq = e :: evs := hq
          refine done ?_ (.deliver i e evs hhead (by omega) hq)
          simp only [step, hin, State.select, if_neg h, hq, reduceCtorEq, if_false, exec, execDeliver, hq',
            List.tail_cons]
    | reset => exact done (by simp only [step, hin, State.select, exec, execReset, List.tail_cons]) (.reset hhead)

end Sys2Proof.Machine
end

