-- ==== Sys2Proof/Laws/Transport.lean ====
section
/-! SUPPORT. What routing, the bind check, START and STOP can answer, said once for each. -/

namespace Sys2Proof.Machine

/-! ### Routing -/

/-- A port that routes is bound by the slot it routes to (42 R121). -/
theorem route_eq_some {s : State} {port : BitVec 16} {i : Nat} (h : s.route port = some i) :
    i < s.nPorts ∧ (∃ b, (s.slot i).bound = some b ∧ b.port = port)
      ∧ ∀ j b, j < i → (s.slot j).bound = some b → b.port ≠ port := by
  unfold State.route at h
  obtain ⟨hi, hp, hlt⟩ := List.findIdx?_eq_some_iff_getElem.1 h
  refine ⟨hi, ?_, fun j b hj hb hc => ?_⟩
  · rw [slot_of_lt s hi]
    cases hb : (s.slots[i]).bound with
    | none => simp [hb] at hp
    | some b => exact ⟨b, rfl, by simpa [hb] using hp⟩
  · have hjn : j < s.nPorts := Nat.lt_trans hj hi
    rw [slot_of_lt s hjn] at hb
    have hb' : (s.slots[j]'(Nat.lt_trans hj hi)).bound = some b := hb
    have := hlt j hj
    rw [hb'] at this
    simp [hc] at this

/-- A port that does not route is bound by no slot (42 R121). -/
theorem route_eq_none_iff {s : State} {port : BitVec 16} :
    s.route port = none ↔ ∀ i b, i < s.nPorts → (s.slot i).bound = some b → b.port ≠ port := by
  unfold State.route
  rw [List.findIdx?_eq_none_iff]
  constructor
  · intro h i b hi hb hc
    rw [slot_of_lt s hi] at hb
    have := h _ (List.getElem_mem hi)
    simp [hb, hc] at this
  · intro h f hf
    obtain ⟨i, hi, rfl⟩ := List.getElem_of_mem hf
    cases hb : (s.slots[i]).bound with
    | none => simp
    | some b => simpa using h i b hi (by rw [slot_of_lt s hi]; exact hb)

theorem ingressSlot_eq_some {s : State} {port : BitVec 16} {i : Nat} :
    s.ingressSlot port = some i ↔ s.status.running = true ∧ s.route port = some i := by
  unfold State.ingressSlot
  cases s.status.running <;> simp

theorem ingressSlot_eq_none {s : State} {port : BitVec 16} :
    s.ingressSlot port = none ↔ s.status.running = false
      ∨ ∀ i b, i < s.nPorts → (s.slot i).bound = some b → b.port ≠ port := by
  rw [← route_eq_none_iff]
  unfold State.ingressSlot
  cases s.status.running <;> simp

/-! ### The bind check -/

/-- The cause of one slot's failure is the lowest that applies (42 R126). -/
theorem bindFailure_eq_some {refused : BitVec 16 → Bool} {before : List Word} {c : Word} {cause : BindCause} :
    bindFailure refused before c = some cause ↔
      cfgEn c = true
        ∧ ((cfgPort c = 0 ∧ cause = .portZero)
          ∨ (cfgPort c ≠ 0 ∧ (∃ d ∈ before, cfgEn d = true ∧ cfgPort d = cfgPort c) ∧ cause = .duplicate)
          ∨ (cfgPort c ≠ 0 ∧ (¬∃ d ∈ before, cfgEn d = true ∧ cfgPort d = cfgPort c)
            ∧ refused (cfgPort c) = true ∧ cause = .refused)) := by
  have hany : (before.any fun d => cfgEn d && cfgPort d == cfgPort c) = true ↔
      ∃ d ∈ before, cfgEn d = true ∧ cfgPort d = cfgPort c := by simp
  unfold bindFailure
  cases hen : cfgEn c with
  | false => simp
  | true =>
    by_cases h0 : cfgPort c = 0
    · rw [if_neg (by simp), if_pos h0]
      cases cause <;> simp [h0]
    · rw [if_neg (by simp), if_neg h0]
      by_cases hd : ∃ d ∈ before, cfgEn d = true ∧ cfgPort d = cfgPort c
      · rw [if_pos (hany.2 hd)]
        cases cause <;> simp only [hd, reduceCtorEq] <;> first | (simp; done) | (simp; exact h0)
      · rw [if_neg (fun h => hd (hany.1 h))]
        cases refused (cfgPort c) <;> cases cause <;> simp only [hd, reduceCtorEq] <;>
          first | (simp; done) | (simp; exact h0)

/-- The scan answers the first slot that fails (42 R126). -/
theorem bindScan_eq_some {refused : BitVec 16 → Bool} {before cfgs : List Word} {i : Nat} {cause : BindCause} :
    bindScan refused before cfgs = some (i, cause) →
      ∃ k, i = before.length + k ∧ (∃ c, cfgs[k]? = some c ∧ bindFailure refused (before ++ cfgs.take k) c = some cause)
        ∧ ∀ j d, j < k → cfgs[j]? = some d → bindFailure refused (before ++ cfgs.take j) d = none := by
  induction cfgs generalizing before with
  | nil => simp [bindScan]
  | cons c rest ih =>
    intro h
    unfold bindScan at h
    cases hf : bindFailure refused before c with
    | some cause' =>
      simp only [hf, Option.some.injEq, Prod.mk.injEq] at h
      exact ⟨0, h.1.symm, ⟨c, rfl, by simp [hf, h.2]⟩, fun j _ hj => absurd hj (by omega)⟩
    | none =>
      simp only [hf] at h
      obtain ⟨k, hk, ⟨d, hd, hfd⟩, hlt⟩ := ih h
      refine ⟨k + 1, by simp at hk; omega, ⟨d, hd, by simpa using hfd⟩, fun j e hj he => ?_⟩
      cases j with
      | zero => simp at he; subst he; simpa using hf
      | succ j => simpa using hlt j e (by omega) he

/-- The scan answers nothing where no slot fails (42 R126). -/
theorem bindScan_eq_none {refused : BitVec 16 → Bool} {before cfgs : List Word} :
    bindScan refused before cfgs = none ↔
      ∀ j d, cfgs[j]? = some d → bindFailure refused (before ++ cfgs.take j) d = none := by
  induction cfgs generalizing before with
  | nil => simp [bindScan]
  | cons c rest ih =>
    unfold bindScan
    cases hf : bindFailure refused before c with
    | some cause =>
      simp only [reduceCtorEq, false_iff]
      exact fun h => by simpa [hf] using h 0 c rfl
    | none =>
      simp only [ih]
      constructor
      · intro h j d hd
        cases j with
        | zero => simp at hd; subst hd; simpa using hf
        | succ j => simpa using h j d (by simpa using hd)
      · intro h j d hd
        simpa using h (j + 1) d (by simpa using hd)

/-- The configuration of slot `j` in the list the bind check scans. -/
theorem portCfg_getElem? {s : State} {j : Nat} {c : Word} :
    (s.slots.map (·.portCfg))[j]? = some c ↔ j < s.nPorts ∧ (s.slot j).portCfg = c := by
  by_cases h : j < s.nPorts
  · have e : s.slots[j]? = some (s.slot j) := by
      rw [slot_of_lt s h]
      exact List.getElem?_eq_getElem h
    simp [List.getElem?_map, e, h]
  · have e : s.slots[j]? = none := List.getElem?_eq_none (Nat.le_of_not_lt h)
    simp [List.getElem?_map, e, h]

theorem portCfg_mem_take {s : State} {i : Nat} (hi : i ≤ s.nPorts) {c : Word} :
    c ∈ (s.slots.map (·.portCfg)).take i ↔ ∃ j, j < i ∧ (s.slot j).portCfg = c := by
  rw [List.mem_take_iff_getElem]
  constructor
  · rintro ⟨j, hj, e⟩
    have : (s.slots.map (·.portCfg))[j]? = some c := by rw [List.getElem?_eq_some_iff]; exact ⟨by omega, e⟩
    exact ⟨j, by omega, (portCfg_getElem?.1 this).2⟩
  · rintro ⟨j, hj, e⟩
    obtain ⟨h1, h2⟩ := List.getElem?_eq_some_iff.1 (portCfg_getElem?.2 ⟨by omega, e⟩)
    exact ⟨j, by omega, h2⟩

/-- The platform's answer: the one the state gives for the pair, or the OPEN draw's (00 R6, log 6). -/
theorem refuses_def (s : State) (a : Nat) (p : BitVec 16) :
    s.refuses a p = (s.bindAnswers.lookup (a, p)).getD (Config.bindRefused a p) := rfl

/-- After reset every answer is the OPEN draw's, whatever it is. -/
theorem refuses_reset (a : Nat) (p : BitVec 16) : State.reset.refuses a p = Config.bindRefused a p := rfl

/-- `bindFailure` says in the machine what `CannotBind` says in the statements (42 R126). -/
theorem cannotBind_iff {s : State} {a i : Nat} {cause : BitVec 2} :
    s.CannotBind a i cause ↔ i < s.nPorts ∧ ∃ c,
      bindFailure (s.refuses a) ((s.slots.map (·.portCfg)).take i) (s.slot i).portCfg = some c ∧ c.bits = cause := by
  unfold State.CannotBind
  by_cases hi : i < s.nPorts
  · simp only [hi, true_and, bindFailure_eq_some, portCfg_mem_take (Nat.le_of_lt hi)]
    have hd : (∃ d, (∃ k, k < i ∧ (s.slot k).portCfg = d) ∧ cfgEn d = true
        ∧ cfgPort d = cfgPort (s.slot i).portCfg) ↔ ∃ j, j < i ∧ cfgEn (s.slot j).portCfg = true
        ∧ cfgPort (s.slot j).portCfg = cfgPort (s.slot i).portCfg := by
      constructor
      · rintro ⟨d, ⟨k, hk, rfl⟩, h⟩
        exact ⟨k, hk, h⟩
      · rintro ⟨k, hk, h⟩
        exact ⟨_, ⟨k, hk, rfl⟩, h⟩
    simp only [hd, refuses_def]
    constructor
    · rintro ⟨he, h | h | h⟩
      · exact ⟨.portZero, ⟨he, .inl ⟨h.1, rfl⟩⟩, h.2.symm⟩
      · exact ⟨.duplicate, ⟨he, .inr (.inl ⟨h.1, h.2.1, rfl⟩)⟩, h.2.2.symm⟩
      · exact ⟨.refused, ⟨he, .inr (.inr ⟨h.1, h.2.1, h.2.2.1, rfl⟩)⟩, h.2.2.2.symm⟩
    · rintro ⟨c, ⟨he, h | h | h⟩, rfl⟩
      · exact ⟨he, .inl ⟨h.1, by rw [h.2]; rfl⟩⟩
      · exact ⟨he, .inr (.inl ⟨h.1, h.2.1, by rw [h.2.2]; rfl⟩)⟩
      · exact ⟨he, .inr (.inr ⟨h.1, h.2.1, h.2.2.1, by rw [h.2.2.2]; rfl⟩)⟩
  · simp [hi]

/-- Everything the bind check can answer: the lowest slot that cannot be bound with its cause, or none where every slot
can be (42 R126). -/
theorem bindCheck_eq_some {s : State} {a i : Nat} {c : BindCause} (h : s.bindCheck a = some (i, c)) :
    s.CannotBind a i c.bits ∧ ∀ j d, j < i → ¬s.CannotBind a j d := by
  obtain ⟨k, hk, ⟨d, hd, hf⟩, hlt⟩ := bindScan_eq_some h
  simp only [List.length_nil, Nat.zero_add] at hk
  subst hk
  obtain ⟨hi, rfl⟩ := portCfg_getElem?.1 hd
  refine ⟨cannotBind_iff.2 ⟨hi, c, by simpa using hf, rfl⟩, fun j d hj hc => ?_⟩
  obtain ⟨hjn, c', hc', -⟩ := cannotBind_iff.1 hc
  have := hlt j _ hj (portCfg_getElem?.2 ⟨hjn, rfl⟩)
  rw [List.nil_append] at this
  rw [this] at hc'
  cases hc'

theorem bindCheck_eq_none {s : State} {a : Nat} : s.bindCheck a = none ↔ ∀ i c, ¬s.CannotBind a i c := by
  unfold State.bindCheck
  rw [bindScan_eq_none]
  constructor
  · intro h i c hc
    obtain ⟨hi, c', hc', -⟩ := cannotBind_iff.1 hc
    have := h i _ (portCfg_getElem?.2 ⟨hi, rfl⟩)
    rw [List.nil_append] at this
    rw [this] at hc'
    cases hc'
  · intro h j d hd
    obtain ⟨hj, rfl⟩ := portCfg_getElem?.1 hd
    cases hf : bindFailure (s.refuses a) ([] ++ List.take j (s.slots.map (·.portCfg))) (s.slot j).portCfg with
    | none => rfl
    | some c => exact absurd (cannotBind_iff.2 ⟨hj, c, by simpa using hf, rfl⟩) (h j c.bits)

/-- A slot fails for one cause only. -/
theorem cannotBind_cause {s : State} {a i : Nat} {c d : BitVec 2} (h1 : s.CannotBind a i c)
    (h2 : s.CannotBind a i d) : c = d := by
  obtain ⟨-, x, hx, rfl⟩ := cannotBind_iff.1 h1
  obtain ⟨-, y, hy, rfl⟩ := cannotBind_iff.1 h2
  rw [hx] at hy
  cases hy
  rfl

/-! ### START and STOP -/

/-- Everything START can do (42 R125): refused while running, failed at a slot, or done. -/
theorem startCommand_cases (s : State) :
    (s.status.running = true ∧ s.startCommand = s.commandError)
      ∨ (s.status.running = false ∧ ∃ i cause, s.bindCheck (s.attempt + 1) = some (i, cause)
          ∧ s.startCommand = { s with attempt := s.attempt + 1 }.startFailed i cause)
      ∨ (s.status.running = false ∧ s.bindCheck (s.attempt + 1) = none
          ∧ s.startCommand = { s with attempt := s.attempt + 1 }.startOk) := by
  have e : { s with attempt := s.attempt + 1 }.bindCheck (s.attempt + 1) = s.bindCheck (s.attempt + 1) := rfl
  cases hr : s.status.running with
  | true => exact .inl ⟨rfl, by simp [State.startCommand, hr]⟩
  | false =>
    right
    cases hb : s.bindCheck (s.attempt + 1) with
    | none => exact .inr ⟨rfl, rfl, by simp [State.startCommand, hr, e, hb]⟩
    | some x => exact .inl ⟨rfl, x.1, x.2, rfl, by simp [State.startCommand, hr, e, hb]⟩

/-- Everything STOP can do (42 R130): stop a running block, or nothing. -/
theorem stopCommand_cases (s : State) :
    (s.status.running = true ∧ s.stopCommand = { s with
        slots := s.slots.map Slot.stop, status := { s.status with running := false } })
      ∨ (s.status.running = false ∧ s.stopCommand = s) := by
  cases hr : s.status.running <;> simp [State.stopCommand, hr]

/-- What START makes of one slot. -/
theorem slot_startCommand (s : State) {i : Nat} (h : i < s.nPorts) :
    (s.startCommand.slot i = s.slot i ∧ s.startCommand.status.running = s.status.running)
      ∨ (s.status.running = false ∧ s.startCommand.status.running = true
          ∧ s.startCommand.slot i = (s.slot i).start (latched (s.slot i).portCfg)) := by
  rcases startCommand_cases s with ⟨-, e⟩ | ⟨-, j, c, -, e⟩ | ⟨hr, -, e⟩ <;> rw [e]
  · exact .inl ⟨rfl, rfl⟩
  · exact .inl ⟨rfl, rfl⟩
  · exact .inr ⟨hr, rfl, slot_of_map (s := s) (g := fun f => f.start (latched f.portCfg)) rfl h⟩

/-- What STOP makes of one slot. -/
theorem slot_stopCommand (s : State) {i : Nat} (h : i < s.nPorts) :
    (s.status.running = true ∧ s.stopCommand.status.running = false ∧ s.stopCommand.slot i = (s.slot i).stop)
      ∨ (s.status.running = false ∧ s.stopCommand = s) := by
  rcases stopCommand_cases s with ⟨hr, e⟩ | ⟨hr, e⟩ <;> rw [e]
  · exact .inl ⟨hr, rfl, slot_of_map (s := s) (g := Slot.stop) rfl h⟩
  · exact .inr ⟨hr, rfl⟩

end Sys2Proof.Machine
end

