-- ==== Sys2Proof/Tests/Slice0.lean ====
section
/-! SUPPORT. The model's own tests: ill-formed terms that the check refuses, words written out from the encodings of
spec/30_encoding.md and spec/opcode_table.json, one-step effects with the expected values of the worked examples of the
rules and of the vectors of spec/95_test_vectors.md (their ids are in the docstrings), and for each statement with
hypotheses a state that meets them (`wit_…`). All use the test configuration TC1 of 00 R7. -/

namespace Sys2Proof.Machine.Tests

/-! ### States to test on -/

/-- The machine after reset, built with TC1 and a platform whose answers for the ports used here are TC1's. -/
def tc : State := { State.reset with
  par := Params.tc1, bindAnswers := [((1, 5000), false), ((1, 6000), false), ((1, 7000), false)] }

/-- `tc` with `PORT_CFG[i]` at `c`, for the first slots in turn. -/
def configured (cs : List Word) : State :=
  { tc with slots := (List.range 4).map fun i => { Slot.reset with portCfg := cs.getD i 0 } }

/-- Slot 0 after `bind 0 5000 1` and `start`. -/
def bound0 : Slot := { Slot.reset with portCfg := 0x80011388, bound := some { port := 5000, role := .telemetry } }

/-- The running block with `f` in slot 0 and the other slots as after reset. -/
def running (f : Slot) (ctrl : Word) : State :=
  { tc with slots := f :: List.replicate 3 Slot.reset, status := { Status.reset with running := true }, ctrl := ctrl }

/-- The running block whose slot 0, bound to port 5000, is in state `st` with buffer `buf`. -/
def framer0 (st : FState) (buf : List Byte) (ctrl : Word) : State := running { bound0 with st := st, buf := buf } ctrl

/-- Harness H0 of 95, after its `start`. -/
def h0 : State := framer0 .seeking [] 0

/-- `F1` of 95. -/
def f1 : List Byte := [0xAA, 0x55, 0x01, 0x00, 0x03, 0x11, 0x22, 0x33, 0xFD, 0x0D, 0x0A]

/-- The frame of FR-09: one payload byte of `F1` changed. -/
def badCsum : List Byte := [0xAA, 0x55, 0x01, 0x00, 0x03, 0x11, 0x22, 0x34, 0xFD, 0x0D, 0x0A]

/-- The frame of FR-10: the last byte of `F1` changed. -/
def badTrailer : List Byte := [0xAA, 0x55, 0x01, 0x00, 0x03, 0x11, 0x22, 0x33, 0xFD, 0x0D, 0x0B]

/-- The `Msg` of FR-01 at time `ts`. -/
def f1Msg (ts : Nat) : Event := .msg {
  slot := 0, udpPort := 5000, role := .telemetry, funcCode := 0x01, length := 3, payload := [0x11, 0x22, 0x33]
  csumRx := 0xFD, csumCalc := 0xFD, csumOk := true, trailerOk := true, ts := ts }

/-- A warning of slot 0. -/
def warn0 (code : WarnCode) (fc : Byte) (len : BitVec 16) (ts : Nat) : Event :=
  .warn { slot := 0, code := code, funcCode := fc, length := len, ts := ts }

/-! ### Running one step -/

/-- The state after one operation, where it completes. -/
def ran (i : Instr) (s : State) : Option State :=
  match exec i s with
  | .next t => some t
  | _ => none

/-- The state after one agent's step. -/
def after (s : State) (x : Stimulus) : State :=
  match step { s with inbox := [x] } with
  | .next t => t
  | _ => s

/-- The response to a host word read. -/
def answer (s : State) (off : Nat) : Out := (after s (.read off 4)).out

/-- Slot 0 after one operation: state, buffer and queue. -/
def framerAfter (i : Instr) (s : State) : Option (FState × List Byte × List Event) :=
  (ran i s).map fun t => ((t.slot 0).st, (t.slot 0).buf, (t.slot 0).outq)

/-! ### WellFormed: one ill-formed term for each check -/

theorem test_wf_framer_slot : (Instr.fEmit 3 0).wellFormed 4 32 = true ∧ (Instr.fEmit 4 0).wellFormed 4 32 = false := by
  decide

theorem test_wf_framer_timestamp :
    (Instr.fDrop 0 255).wellFormed 4 8 = true ∧ (Instr.fDrop 0 256).wellFormed 4 8 = false := by decide

theorem test_wf_datagram_timestamp :
    (Instr.dgramRouted 5000 [1] 255).wellFormed 4 8 = true ∧ (Instr.dgramRouted 5000 [1] 256).wellFormed 4 8 = false
      ∧ (Instr.dgramUnrouted 5000 [] 256).wellFormed 4 8 = false := by decide

theorem test_wf_register_slot :
    (Instr.rdPortCfg 3).wellFormed 4 32 = true ∧ (Instr.rdPortCfg 4).wellFormed 4 32 = false
      ∧ (Instr.wrBufLevel 4 0).wellFormed 4 32 = false := by decide

theorem test_wf_reserved :
    (Instr.csrReserved 0x018 none).wellFormed 4 32 = true ∧ (Instr.csrReserved 0x014 none).wellFormed 4 32 = false
      ∧ (Instr.csrReserved 0x019 none).wellFormed 4 32 = false ∧ (Instr.csrReserved 0x300 none).wellFormed 4 32 = false
      ∧ (Instr.csrReserved 0x050 (some 1)).wellFormed 4 32 = true
      ∧ (Instr.csrReserved 0x050 (some 1)).wellFormed 5 32 = false := by decide

theorem test_wf_misaligned :
    (Instr.csrMisaligned 0x002 4 none).wellFormed 4 32 = true ∧ (Instr.csrMisaligned 0x010 2 none).wellFormed 4 32 = true
      ∧ (Instr.csrMisaligned 0x010 4 none).wellFormed 4 32 = false
      ∧ (Instr.csrMisaligned 0x302 4 none).wellFormed 4 32 = false := by decide

theorem test_wf_deliver : (Instr.deliver 3).wellFormed 4 32 = true ∧ (Instr.deliver 4).wellFormed 4 32 = false := by
  decide

/-! ### Decoding: words written out from spec/opcode_table.json -/

/-- State code 00, with the buffers that tell the three Seeking rows apart. -/
theorem test_decode_seeking :
    framerOp Params.tc1 false (FState.ofBits 0b00) [0xAA] = .waitSync
      ∧ framerOp Params.tc1 false (FState.ofBits 0b00) [0xAA, 0x55] = .sync
      ∧ framerOp Params.tc1 false (FState.ofBits 0b00) [0xAA, 0xAA, 0x55] = .drop := by decide

/-- State code 01: `MAX_LEN + 1` overflows, `MAX_LEN` does not (FR-08b, FR-08c), and a whole frame is ready. -/
theorem test_decode_have_header :
    framerOp Params.tc1 false (FState.ofBits 0b01) [0xAA, 0x55, 0x01, 0x00] = .waitHdr
      ∧ framerOp Params.tc1 false (FState.ofBits 0b01) [0xAA, 0x55, 0x02, 0x04, 0x01] = .lenOvf
      ∧ framerOp Params.tc1 false (FState.ofBits 0b01) [0xAA, 0x55, 0x02, 0x04, 0x00] = .waitBody
      ∧ framerOp Params.tc1 false (FState.ofBits 0b01) f1 = .ready := by decide

/-- State codes 10 and 11. -/
theorem test_decode_have_frame_yielded :
    framerOp Params.tc1 false (FState.ofBits 0b10) f1 = .emit
      ∧ framerOp Params.tc1 true (FState.ofBits 0b10) f1 = .discard
      ∧ framerOp Params.tc1 false (FState.ofBits 0b11) [] = .resume := by decide

/-- The framer stimulus of slot 0 selects by that slot's state, buffer and the gates. -/
theorem test_decode_framer_stimulus :
    (framer0 .seeking [0x13, 0x37] 0).select (.framer 0 7) = .op (.fDrop 0 7)
      ∧ (framer0 .haveFrame badCsum 0).select (.framer 0 7) = .op (.fEmit 0 7)
      ∧ (framer0 .haveFrame badCsum 1).select (.framer 0 7) = .op (.fDiscard 0 7)
      ∧ (framer0 .haveFrame badCsum 1).select (.framer 4 7) = .rejected .noSuchSlot := by decide

/-- Datagrams by `RUNNING` and the bound ports; the timestamp has `TS_W` bits. -/
theorem test_decode_datagram :
    h0.select (.dgram 5000 f1 1) = .op (.dgramRouted 5000 f1 1)
      ∧ h0.select (.dgram 5001 f1 (2 ^ 32 + 1)) = .op (.dgramUnrouted 5001 f1 1)
      ∧ tc.select (.dgram 5000 f1 1) = .op (.dgramUnrouted 5000 f1 1)
      ∧ h0.select (.dgram 0 f1 1) = .op (.dgramUnrouted 0 f1 1) := by decide

theorem test_decode_deliver_reset :
    (running { bound0 with outq := [f1Msg 1] } 0).select (.deliver 0) = .op (.deliver 0)
      ∧ h0.select (.deliver 0) = .rejected .nothingQueued ∧ h0.select (.deliver 4) = .rejected .noSuchSlot
      ∧ h0.select .reset = .op .reset := by decide

theorem test_decode_params :
    tc.select (.read 0b0000000000 4) = .op .rdParams
      ∧ tc.select (.write 0b0000000000 4 0xDEADBEEF) = .op (.wrParams 0xDEADBEEF) := by decide

theorem test_decode_proto :
    tc.select (.read 0b0000000100 4) = .op .rdProto
      ∧ tc.select (.write 0b0000000100 4 0xDEADBEEF) = .op (.wrProto 0xDEADBEEF) := by decide

theorem test_decode_ctrl :
    tc.select (.read 0b0000001000 4) = .op .rdCtrl
      ∧ tc.select (.write 0b0000001000 4 0xDEADBEEF) = .op (.wrCtrl 0xDEADBEEF) := by decide

theorem test_decode_status :
    tc.select (.read 0b0000010000 4) = .op .rdStatus
      ∧ tc.select (.write 0b0000010000 4 0xDEADBEEF) = .op (.wrStatus 0xDEADBEEF) := by decide

theorem test_decode_unrouted :
    tc.select (.read 0b0000010100 4) = .op .rdUnrouted
      ∧ tc.select (.write 0b0000010100 4 0xDEADBEEF) = .op (.wrUnrouted 0xDEADBEEF) := by decide

theorem test_decode_cmd :
    tc.select (.read 0b0000001100 4) = .op .rdCmd
      ∧ tc.select (.write 0b0000001100 4 0b00) = .op (.cmdNone 0)
      ∧ tc.select (.write 0b0000001100 4 0b01) = .op (.cmdStart 0)
      ∧ tc.select (.write 0b0000001100 4 0b10) = .op (.cmdStop 0)
      ∧ tc.select (.write 0b0000001100 4 0b11) = .op (.cmdIllegal 0) := by decide

/-- CS-12: `wr CMD 0x5` is a START, its ignored bits kept as an operand. -/
theorem test_decode_cmd_ignored_bits :
    tc.select (.write 0b0000001100 4 0x5) = .op (.cmdStart 1)
      ∧ tc.select (.write 0b0000001100 4 0xFFFFFFFE) = .op (.cmdStop 0x3FFFFFFF) := by decide

theorem test_decode_port_cfg :
    tc.select (.read 0b0001000000 4) = .op (.rdPortCfg 0)
      ∧ tc.select (.read 0b0001001100 4) = .op (.rdPortCfg 3)
      ∧ tc.select (.write 0b0001000100 4 0x80021770) = .op (.wrPortCfg 1 0x80021770) := by decide

theorem test_decode_rx_dgrams :
    tc.select (.read 0b0100000000 4) = .op (.rdRxDgrams 0)
      ∧ tc.select (.write 0b0100000000 4 7) = .op (.wrRxDgrams 0 7) := by decide

theorem test_decode_rx_bytes :
    tc.select (.read 0b0101000100 4) = .op (.rdRxBytes 1)
      ∧ tc.select (.write 0b0101000100 4 7) = .op (.wrRxBytes 1 7) := by decide

theorem test_decode_frames_ok :
    tc.select (.read 0b0110001000 4) = .op (.rdFramesOk 2)
      ∧ tc.select (.write 0b0110001000 4 7) = .op (.wrFramesOk 2 7) := by decide

theorem test_decode_resync_drops :
    tc.select (.read 0b0111001100 4) = .op (.rdResyncDrops 3)
      ∧ tc.select (.write 0b0111001100 4 7) = .op (.wrResyncDrops 3 7) := by decide

theorem test_decode_len_ovf :
    tc.select (.read 0b0100010000 4) = .op (.rdLenOvf 0)
      ∧ tc.select (.write 0b0100010000 4 7) = .op (.wrLenOvf 0 7) := by decide

theorem test_decode_trailer_err :
    tc.select (.read 0b0101010100 4) = .op (.rdTrailerErr 1)
      ∧ tc.select (.write 0b0101010100 4 7) = .op (.wrTrailerErr 1 7) := by decide

theorem test_decode_csum_err :
    tc.select (.read 0b0110011000 4) = .op (.rdCsumErr 2)
      ∧ tc.select (.write 0b0110011000 4 7) = .op (.wrCsumErr 2 7) := by decide

theorem test_decode_discarded :
    tc.select (.read 0b0111011100 4) = .op (.rdDiscarded 3)
      ∧ tc.select (.write 0b0111011100 4 7) = .op (.wrDiscarded 3 7) := by decide

theorem test_decode_pstate :
    tc.select (.read 0b0100100000 4) = .op (.rdPstate 0)
      ∧ tc.select (.write 0b0100100000 4 7) = .op (.wrPstate 0 7) := by decide

theorem test_decode_buf_level :
    tc.select (.read 0b0111100100 4) = .op (.rdBufLevel 3)
      ∧ tc.select (.write 0b0111100100 4 7) = .op (.wrBufLevel 3 7) := by decide

/-- Reserved offsets of 30 R70 and R77 with four slots: both fixed gaps, slot 4's registers, a block's tail, the end. -/
theorem test_decode_reserved :
    tc.select (.read 0b0000011000 4) = .op (.csrReserved 0x018 none)
      ∧ tc.select (.read 0b0000111100 4) = .op (.csrReserved 0x03C none)
      ∧ tc.select (.write 0b0001010000 4 1) = .op (.csrReserved 0x050 (some 1))
      ∧ tc.select (.read 0b0001100000 4) = .op (.csrReserved 0x060 none)
      ∧ tc.select (.read 0b0011111100 4) = .op (.csrReserved 0x0FC none)
      ∧ tc.select (.read 0b0100101000 4) = .op (.csrReserved 0x128 none)
      ∧ tc.select (.read 0b1000000000 4) = .op (.csrReserved 0x200 none)
      ∧ tc.select (.read 0b1011111100 4) = .op (.csrReserved 0x2FC none) := by decide

/-- CS-08, CS-09 and CS-10, the last byte of the window, and what lies outside it, as log 7 reads it. -/
theorem test_decode_misaligned :
    tc.select (memRead 0x4000 0x4002 4) = .op (.csrMisaligned 0x002 4 none)
      ∧ tc.select (memWrite 0x4000 0x400E 4 1) = .op (.csrMisaligned 0x00E 4 (some 1))
      ∧ tc.select (memRead 0x4000 0x4010 2) = .op (.csrMisaligned 0x010 2 none)
      ∧ tc.select (memRead 0x4000 0x42FF 4) = .op (.csrMisaligned 0x2FF 4 none)
      ∧ tc.select (memRead 0x4000 0x4300 4) = .rejected .outsideWindow
      ∧ tc.select (memRead 0x4000 0x3FFC 4) = .rejected .outsideWindow
      ∧ tc.select (memRead 0x4000 0x3FFC 8) = .rejected .outsideWindow := by decide

/-- Table words, and the offset of a write below its data. -/
theorem test_decode_table_words :
    decodeTableWord 16 0b0101100100 = some (.rdBufLevel 1) ∧ decodeTableWord 48 (9 * 2 ^ 16 + 0b0101100100) =
      some (.wrBufLevel 1 9) ∧ decodeTableWord 16 0b1100000000 = none := by decide

/-- The word placed by `withFetchWord` is the one the next step runs. -/
theorem test_fetch_word :
    step (tc.withFetchWord 16 0b0000000000) = .next { tc with out := .readOk 0x00040400 } := rfl

/-- The expansions of P1 steps 5 to 7, P4 steps 9 and 20, and P3 step 3. -/
theorem test_pseudo_operations :
    bindSlot 0 5000 .telemetry = .write 0x040 4 0x80011388 ∧ bindSlot 1 6000 .lidar = .write 0x044 4 0x80021770
      ∧ startBlock = .write 0x00C 4 0x00000001 ∧ unbindSlot 2 = .write 0x048 4 0x0 ∧ stopBlock = .write 0x00C 4 0x2
      ∧ gated = .write 0x008 4 0x3 ∧ permissive = .write 0x008 4 0x0 := by decide

/-- The codes of 10 R22 and 10 R26, both ways. -/
theorem test_field_codes :
    [FState.seeking, .haveHeader, .haveFrame, .yielded].map FState.bits = [0, 1, 2, 3]
      ∧ [0, 1, 2, 3].map FState.ofBits = [.seeking, .haveHeader, .haveFrame, .yielded]
      ∧ [PortRole.commandResponse, .telemetry, .lidar, .planning].map PortRole.bits = [0, 1, 2, 3]
      ∧ [0, 1, 2, 3].map PortRole.ofBits = [.commandResponse, .telemetry, .lidar, .planning] := by decide

/-! ### Reads: the values of CS-01 to CS-07 and CS-14 -/

/-- CS-01: `PARAMS`, `PROTO`, `CTRL`, `STATUS`, `UNROUTED` and `CMD` after reset. -/
theorem test_reads_after_reset :
    answer tc 0x000 = .readOk 0x00040400 ∧ answer tc 0x004 = .readOk 0x0A0D55AA ∧ answer tc 0x008 = .readOk 0
      ∧ answer tc 0x010 = .readOk 0 ∧ answer tc 0x014 = .readOk 0 ∧ answer tc 0x00C = .readOk 0 := by decide

/-- FR-18 and CS-14: `PSTATE[0]` and `BUF_LEVEL[0]` with a header waiting. -/
theorem test_read_slot_views :
    answer (framer0 .haveHeader [0xAA, 0x55, 0x01, 0x00, 0x03] 0) 0x120 = .readOk 0x13880015
      ∧ answer (framer0 .haveHeader [0xAA, 0x55, 0x01, 0x00, 0x03] 0) 0x124 = .readOk 5 := by decide

/-- Each counter of slot 0 is read at its own offset (30 R70). -/
theorem test_read_counters :
    let s := running { bound0 with
      rxDgrams := 1, rxBytes := 2, framesOk := 3, resyncDrops := 4, lenOvf := 5, trailerErr := 6, csumErr := 7
      discarded := 8 } 0
    [0x100, 0x104, 0x108, 0x10C, 0x110, 0x114, 0x118, 0x11C].map (answer s) =
      [.readOk 1, .readOk 2, .readOk 3, .readOk 4, .readOk 5, .readOk 6, .readOk 7, .readOk 8] := by decide

/-- P4 step 5: `STATUS` after a failed START. -/
theorem test_read_status_fields :
    answer { tc with status := { running := false, startFail := true, cmdErr := false, failSlot := 2, failCause := 2 } }
      0x010 = .readOk 0x00002202 := by decide

/-- CS-08 and CS-11: `BusErr`, a reserved offset, and no response above the window. -/
theorem test_read_refused_and_reserved :
    (after tc (.read 0x002 4)).out = .busErr ∧ answer tc 0x050 = .readOk 0 ∧ answer tc 0x200 = .readOk 0
      ∧ answer tc 0x300 = .noResponse := by decide

/-- `PORT_CFG[1]` and `UNROUTED` read what they hold. -/
theorem test_read_port_cfg_unrouted :
    answer (configured [0, 0x80021770]) 0x044 = .readOk 0x80021770
      ∧ answer { tc with unrouted := 9 } 0x014 = .readOk 9 := by decide

/-! ### Writes -/

/-- CS-02: the defined bits of `CTRL`. -/
theorem test_write_ctrl : (after tc (.write 0x008 4 0xFFFFFFFF)).ctrl = 0x00000003 := by decide

/-- CS-03: the defined bits of `PORT_CFG[3]`; nothing is bound by it. -/
theorem test_write_port_cfg :
    ((after tc (.write 0x04C 4 0xFFFFFFFF)).slot 3).portCfg = 0x8003FFFF
      ∧ ((after tc (.write 0x04C 4 0xFFFFFFFF)).slot 3).bound = none := by decide

/-- P4 steps 10 and 18: a 1 written clears its own bit only. -/
theorem test_write_status :
    let s := { tc with status := { running := true, startFail := true, cmdErr := true, failSlot := 2, failCause := 2 } }
    (after s (.write 0x010 4 0x2)).status.word = 0x00000005 ∧ (after s (.write 0x010 4 0x4)).status.word = 0x00002203 := by
  decide

/-- CS-04: a write to a read-only register changes nothing. -/
theorem test_write_read_only :
    ran (.wrParams 0) tc = some { tc with out := .writeOk } ∧ ran (.wrProto 1) tc = some { tc with out := .writeOk }
      ∧ ran (.wrUnrouted 1) tc = some { tc with out := .writeOk } := by decide

/-- 43 R154: no per-slot counter or view can be preset. -/
theorem test_write_read_only_slot :
    [Instr.wrRxDgrams 0 1, .wrRxBytes 0 1, .wrFramesOk 0 1, .wrResyncDrops 0 1, .wrLenOvf 0 1, .wrTrailerErr 0 1,
      .wrCsumErr 0 1, .wrDiscarded 0 1, .wrPstate 0 1, .wrBufLevel 0 1].map (ran · h0) =
      List.replicate 10 (some { h0 with out := .writeOk }) := by decide

/-- CS-09 and CS-11: no START runs, and a reserved offset stores nothing. -/
theorem test_write_refused_and_reserved :
    after tc (.write 0x00E 4 1) = { tc with out := .busErr }
      ∧ after tc (.write 0x050 4 1) = { tc with out := .writeOk } := by decide

/-- CS-05, CS-13. -/
theorem test_command_illegal_none :
    (after tc (.write 0x00C 4 3)).status.word = 0x00000004
      ∧ after tc (.write 0x00C 4 0) = { tc with out := .writeOk } := by decide

/-! ### START and STOP -/

/-- TR-04: two slots bound. -/
theorem test_start_binds :
    let t := after (configured [0x80011388, 0x80021770]) (.write 0x00C 4 1)
    t.status.word = 0x00000001 ∧ t.attempt = 1 ∧ answer t 0x120 = .readOk 0x13880014
      ∧ answer t 0x160 = .readOk 0x17700024 ∧ answer t 0x1A0 = .readOk 0 := by decide

/-- TR-05 (port zero), TR-06 (duplicate), TR-07 (refused at attempt 1), TR-09 (a disabled slot is skipped). -/
theorem test_start_fails :
    (after (configured [0, 0x80010000]) (.write 0x00C 4 1)).status.word = 0x00001102
      ∧ (after (configured [0x80011388, 0, 0x80031388]) (.write 0x00C 4 1)).status.word = 0x00002202
      ∧ (after { configured [0x80011388, 0x80021B58] with bindAnswers := [((1, 5000), false), ((1, 7000), true)] }
        (.write 0x00C 4 1)).status.word = 0x00003102
      ∧ (after (configured [0x80011388, 0x00011388]) (.write 0x00C 4 1)).status.word = 0x00000001 := by decide

/-- A pair whose answer the state does not give has the OPEN draw's (log 6). -/
theorem test_bind_answer_open : tc.refuses 2 7000 = Config.bindRefused 2 7000 := rfl

/-- TR-08: the lowest slot and cause are reported, and nothing is bound. -/
theorem test_start_fails_lowest :
    let t := after (configured [0x80010000, 0x80011388, 0, 0x80001388]) (.write 0x00C 4 1)
    t.status.word = 0x00001002 ∧ (t.slot 1).bound = none := by decide

/-- TR-10: a START while running. -/
theorem test_start_while_running :
    (after h0 (.write 0x00C 4 1)).status.word = 0x00000005 ∧ (after h0 (.write 0x00C 4 1)).attempt = 0 := by decide

/-- TR-11 and 42 R128: a START clears the counters and keeps the queue. -/
theorem test_start_clears_counters :
    let s := { running { bound0 with framesOk := 1, outq := [f1Msg 1], bound := none } 0 with
      status := Status.reset, unrouted := 1 }
    let t := after s (.write 0x00C 4 1)
    (t.slot 0).framesOk = 0 ∧ t.unrouted = 0 ∧ (t.slot 0).outq = [f1Msg 1] := by decide

/-- TR-11 and 42 R130: the buffer is emptied, the slot unbound, the counters and the queue are kept. -/
theorem test_stop :
    let t := after (running { bound0 with buf := [0xAA, 0x55], st := .haveHeader, framesOk := 1, outq := [f1Msg 1] } 0)
      (.write 0x00C 4 2)
    t.status.word = 0 ∧ (t.slot 0).buf = [] ∧ answer t 0x120 = .readOk 0 ∧ (t.slot 0).framesOk = 1
      ∧ (t.slot 0).outq = [f1Msg 1] := by decide

/-- TR-12: a STOP while stopped. -/
theorem test_stop_idempotent : after tc (.write 0x00C 4 2) = { tc with out := .writeOk } := by decide

/-! ### The framer rows: the examples of 41 -/

/-- R91, R94 and R96: the waits. -/
theorem test_waits :
    ran (.fWaitSync 0 7) (framer0 .seeking [0xAA] 0) = some (framer0 .seeking [0xAA] 0)
      ∧ ran (.fWaitHdr 0 7) (framer0 .haveHeader [0xAA, 0x55, 0x01, 0x00] 0)
        = some (framer0 .haveHeader [0xAA, 0x55, 0x01, 0x00] 0)
      ∧ ran (.fWaitBody 0 7) (framer0 .haveHeader (f1.take 7) 0) = some (framer0 .haveHeader (f1.take 7) 0) := by decide

/-- R92. -/
theorem test_sync :
    framerAfter (.fSync 0 7) (framer0 .seeking [0xAA, 0x55, 0x01] 0) = some (.haveHeader, [0xAA, 0x55, 0x01], []) := by
  decide

/-- R93. -/
theorem test_drop :
    framerAfter (.fDrop 0 7) (framer0 .seeking [0x13, 0xAA, 0x55] 0) = some (.seeking, [0xAA, 0x55], [])
      ∧ (ran (.fDrop 0 7) (framer0 .seeking [0x13, 0xAA, 0x55] 0)).map (fun t => (t.slot 0).resyncDrops) = some 1 := by
  decide

/-- R95. -/
theorem test_len_ovf :
    framerAfter (.fLenOvf 0 7) (framer0 .haveHeader [0xAA, 0x55, 0x07, 0x04, 0x01, 0x99] 0) =
      some (.seeking, [0x55, 0x07, 0x04, 0x01, 0x99], [warn0 .lenOverflow 0x07 1025 7])
      ∧ (ran (.fLenOvf 0 7) (framer0 .haveHeader [0xAA, 0x55, 0x07, 0x04, 0x01] 0)).map (fun t => (t.slot 0).lenOvf)
        = some 1 := by decide

/-- R97. -/
theorem test_ready : framerAfter (.fReady 0 7) (framer0 .haveHeader f1 0) = some (.haveFrame, f1, []) := by decide

/-- R99. -/
theorem test_emit :
    framerAfter (.fEmit 0 7) (framer0 .haveFrame (f1 ++ [0x99]) 0) = some (.yielded, [0x99], [f1Msg 7])
      ∧ (ran (.fEmit 0 7) (framer0 .haveFrame (f1 ++ [0x99]) 0)).map (fun t => (t.slot 0).framesOk) = some 1 := by
  decide

/-- FR-11: both flags false, the trailer warning first. -/
theorem test_emit_warns :
    framerAfter (.fEmit 0 1)
        (framer0 .haveFrame [0xAA, 0x55, 0x01, 0x00, 0x03, 0x11, 0x22, 0x34, 0xFD, 0x0A, 0x0D] 0) =
      some (.yielded, [], [warn0 .trailerMismatch 1 3 1, warn0 .csumMismatch 1 3 1, .msg {
        slot := 0, udpPort := 5000, role := .telemetry, funcCode := 0x01, length := 3, payload := [0x11, 0x22, 0x34]
        csumRx := 0xFD, csumCalc := 0xFA, csumOk := false, trailerOk := false, ts := 1 }]) := by decide

/-- R100. -/
theorem test_discard :
    framerAfter (.fDiscard 0 7) (framer0 .haveFrame badCsum 1) =
      some (.seeking, badCsum.drop 1, [warn0 .csumMismatch 1 3 7, warn0 .frameDiscarded 1 3 7])
      ∧ (ran (.fDiscard 0 7) (framer0 .haveFrame badCsum 1)).map
        (fun t => ((t.slot 0).csumErr, (t.slot 0).discarded, (t.slot 0).trailerErr)) = some (1, 1, 0) := by decide

/-- FR-14: the trailer gate. -/
theorem test_discard_trailer :
    framerAfter (.fDiscard 0 1) (framer0 .haveFrame badTrailer 2) =
      some (.seeking, badTrailer.drop 1, [warn0 .trailerMismatch 1 3 1, warn0 .frameDiscarded 1 3 1]) := by decide

/-- R101. -/
theorem test_resume : framerAfter (.fResume 0 7) (framer0 .yielded [0x99] 0) = some (.seeking, [0x99], []) := by decide

/-! ### Datagrams, delivery, reset -/

/-- FR-01 and the example of 42 R123. -/
theorem test_datagram_frame :
    framerAfter (.dgramRouted 5000 f1 9) h0 = some (.seeking, [], [f1Msg 9])
      ∧ (ran (.dgramRouted 5000 f1 9) h0).map
        (fun t => ((t.slot 0).rxDgrams, (t.slot 0).rxBytes, (t.slot 0).framesOk)) = some (1, 11, 1) := by decide

/-- FR-21: an overlapping false sync pair. -/
theorem test_datagram_false_sync :
    framerAfter (.dgramRouted 5000 [0xAA, 0x55, 0xAA, 0x55, 0x00, 0x00, 0x00, 0xFF, 0x0D, 0x0A] 1) h0 =
      some (.seeking, [], [warn0 .lenOverflow 0xAA 21760 1, .msg {
        slot := 0, udpPort := 5000, role := .telemetry, funcCode := 0x00, length := 0, payload := []
        csumRx := 0xFF, csumCalc := 0xFF, csumOk := true, trailerOk := true, ts := 1 }]) := by decide

/-- TR-01 and TR-02: stopped, and no slot has the port. -/
theorem test_datagram_unrouted :
    after tc (.dgram 5000 f1 1) = { tc with unrouted := 1 }
      ∧ after h0 (.dgram 5001 f1 1) = { h0 with unrouted := 1 } := by decide

/-- P1 step 15: the head event is handed over. -/
theorem test_deliver :
    let t := after (running { bound0 with outq := [f1Msg 10, f1Msg 11] } 0) (.deliver 0)
    t.out = .delivered 0 (f1Msg 10) ∧ (t.slot 0).outq = [f1Msg 11] := by decide

/-- RS-01 and RS-02: every register is at its reset value and the queue is empty. -/
theorem test_reset :
    after { running { bound0 with outq := [f1Msg 1], buf := [0xAA], rxBytes := 7 } 3 with attempt := 2 } .reset = tc := by
  decide

/-! ### The codec -/

/-- CD-01 and CD-02. -/
theorem test_encode_frame :
    encodeFrame Params.tc1 0x01 [0x11, 0x22, 0x33] = some f1
      ∧ encodeFrame Params.tc1 0x00 [] = some [0xAA, 0x55, 0x00, 0x00, 0x00, 0xFF, 0x0D, 0x0A] := by decide

/-- CD-06, CD-07, CD-08 and CD-09. -/
theorem test_decode_frame_rejects :
    decodeFrame Params.tc1 [0xAA, 0x55, 0x01, 0x00, 0x00, 0xFE, 0x0D] = .incomplete
      ∧ decodeFrame Params.tc1 [0xAB, 0x55, 0x01, 0x00, 0x00, 0xFE, 0x0D, 0x0A] = .badSync
      ∧ decodeFrame Params.tc1 [0xAA, 0x55, 0x07, 0x04, 0x01, 0x00, 0x00, 0x00] = .lengthOverflow
      ∧ decodeFrame Params.tc1 (f1.take 10) = .incomplete := by decide

/-- CD-18: a changed length byte. -/
theorem test_decode_frame_flags :
    decodeFrame Params.tc1 [0xAA, 0x55, 0x01, 0x00, 0x02, 0x11, 0x22, 0x33, 0xFD, 0x0D, 0x0A] = .frame {
      funcCode := 0x01, length := 2, payload := [0x11, 0x22], csumRx := 0x33, csumCalc := 0xCF, csumOk := false
      trailerOk := false, consumed := 10 } := by decide

/-- The codes of 60 R161. -/
theorem test_warn_codes :
    [WarnCode.lenOverflow, .trailerMismatch, .csumMismatch, .frameDiscarded].map WarnCode.bits = [1, 2, 3, 4] := by decide


/-! ### Witnesses: states that meet the statements' hypotheses -/

theorem wit_StepRunsTheSelectedOperation :
    tc.inbox = [] ∧ h0.select (.dgram 5000 f1 1) = .op (.dgramRouted 5000 f1 1)
      ∧ tc.select (.read 0x300 4) = .rejected .outsideWindow ∧ tc.select (.read (-4) 4) = .rejected .outsideWindow
      ∧ tc.select (.deliver 4) = .rejected .noSuchSlot ∧ tc.select (.deliver 3) = .rejected .nothingQueued := by decide

/-- An operation of each group that meets `SelectedIn` and is well formed. -/
theorem wit_SelectingAnEncodedOperationGivesItBack :
    SelectedIn (framer0 .haveFrame badCsum 1) (.fDiscard 0 7)
      ∧ (Instr.fDiscard 0 7).wellFormed (framer0 .haveFrame badCsum 1).nPorts 32 = true
      ∧ SelectedIn h0 (.dgramRouted 5000 f1 (2 ^ 32 - 1))
      ∧ (Instr.dgramRouted 5000 f1 (2 ^ 32 - 1)).wellFormed h0.nPorts h0.par.tsW = true
      ∧ SelectedIn tc (.csrReserved 0x2FC none) ∧ (Instr.csrReserved 0x2FC none).wellFormed tc.nPorts 32 = true
      ∧ SelectedIn tc (.wrBufLevel 3 1) ∧ (Instr.wrBufLevel 3 1).wellFormed tc.nPorts 32 = true ∧ tc.nPorts ≤ 8 := by
  exact ⟨⟨by decide, rfl, by decide⟩, by decide, ⟨rfl, 0, { port := 5000, role := .telemetry }, by decide, rfl, rfl⟩,
    by decide, (by decide : isReserved tc.nPorts 0x2FC = true), by decide, trivial, by decide, by decide⟩

theorem wit_ASelectedOperationMeetsItsCondition :
    h0.nPorts ≤ 8 ∧ h0.select (.dgram 5000 f1 (2 ^ 32 + 1)) = .op (.dgramRouted 5000 f1 1) := by decide

theorem wit_ExactlyOneFramerOperationApplies : 3 < tc.nPorts := by decide

theorem wit_OperationsCompleteExactlyWhereSelected :
    SelectedIn (framer0 .yielded [] 0) (.fResume 0 7) ∧ ¬SelectedIn (framer0 .yielded [] 0) (.fSync 0 7)
      ∧ ¬SelectedIn tc (.deliver 0) := by
  exact ⟨⟨by decide, rfl⟩, fun h => absurd h.2.1 (by decide), fun h => h.2 rfl⟩

theorem wit_CmdRegisterDecodesCommands :
    (0xFFFFFFFC#32).toNat % 4 = 0 ∧ (5#32).toNat % 4 = 1 ∧ (2#32).toNat % 4 = 2 ∧ (0xFFFFFFFF#32).toNat % 4 = 3 := by
  decide

theorem wit_UnroutedRegisterReportsTheCounter :
    (configured [0x80011388]).status.running = false
      ∧ (ran (.cmdStart 0) (configured [0x80011388])).map (·.status.running) = some true := by decide

theorem wit_PortCfgRegisterHoldsWhatWasWritten :
    3 < tc.nPorts ∧ (tc.slot 3).portCfg &&& ~~~0x8003FFFF#32 = 0
      ∧ (ran (.wrPortCfg 3 0xFFFFFFFF) tc).map (fun t => (t.slot 3).portCfg) = some 0x8003FFFF := by decide

theorem wit_CounterReadsReturnTheCounters : 3 < tc.nPorts := by decide

/-- Slots after reset are the model's own default slot. -/
theorem slot_running_succ (f : Slot) (ctrl : Word) (i : Nat) : (running f ctrl).slot (i + 1) = Slot.reset := by
  rcases i with _ | _ | _ | i <;> rfl

/-- A running block whose slot 0 is well meets the invariant. -/
theorem inv_running {f : Slot} (h : f.Ok Params.tc1 0) (hb : f.bound = bound0.bound) : (running f 0).Inv where
  slotsOk := by
    rintro (_ | i) _
    · exact h
    · rw [slot_running_succ]
      exact ⟨.inl ⟨rfl, by decide⟩, fun _ => ⟨rfl, rfl⟩, by decide, by simp [Slot.reset]⟩
  portsDistinct := by
    rintro (_ | i) (_ | j) b c _ _ hij hi hj
    · exact absurd rfl hij
    · rw [slot_running_succ] at hj; cases hj
    · rw [slot_running_succ] at hi; cases hi
    · rw [slot_running_succ] at hj; cases hj
  portsNonzero := by
    rintro (_ | i) b _ hi
    · have : some b = bound0.bound := by rw [← hb, ← hi]; rfl
      cases this
      decide
    · rw [slot_running_succ] at hi; cases hi
  stoppedUnbound := nofun
  ctrlReserved := (by decide : (0 : Word) &&& ~~~ctrlMask = 0)
  failReported := ⟨rfl, rfl⟩

/-- The invariant in a running block, with nothing buffered and with a header waiting. -/
theorem wit_Inv : h0.Inv ∧ (framer0 .haveHeader [0xAA, 0x55, 0x01, 0x00, 0x03] 0).Inv :=
  ⟨inv_running ⟨.inl ⟨rfl, by decide⟩, fun h => (nomatch h), by decide, nofun⟩ rfl,
    inv_running ⟨.inr ⟨rfl, rfl, .inr (by decide)⟩, fun h => (nomatch h), by decide, nofun⟩ rfl⟩

/-- Bound and unbound, in a state that meets the invariant; and each framer state and each role. -/
theorem wit_PstateReportsStateAndBinding :
    (0 < h0.nPorts ∧ (h0.slot 0).bound = some { port := 5000, role := .telemetry } ∧ (h0.slot 3).bound = none ∧ h0.Inv)
      ∧ (∀ st, ((framer0 st [] 0).slot 0).st = st)
      ∧ ∀ r, ((running { bound0 with bound := some { port := 5000, role := r } } 0).slot 0).bound
        = some { port := 5000, role := r } :=
  ⟨⟨by decide, rfl, rfl, wit_Inv.1⟩, fun _ => rfl, fun _ => rfl⟩

theorem wit_BufLevelReportsBufferedBytes :
    0 < (framer0 .haveHeader [0xAA, 0x55, 0x01, 0x00, 0x03] 0).nPorts
      ∧ (framer0 .haveHeader [0xAA, 0x55, 0x01, 0x00, 0x03] 0).Inv := ⟨by decide, wit_Inv.2⟩

theorem wit_ReadOnlyRegisterWritesChangeNothing : 0 < tc.nPorts ∧ 3 < tc.nPorts := by decide

theorem wit_MisalignedAccessesAnswerBusErr :
    (0x2FF < 0x300 ∧ (0x2FF % 4 ≠ 0 ∨ 4 ≠ 4)) ∧ (0x2FC < 0x300 ∧ (0x2FC % 4 ≠ 0 ∨ 2 ≠ 4)) := by decide

theorem wit_ReservedOffsetsReadZeroIgnoreWrites :
    tc.nPorts ≤ 8 ∧ ([0x018, 0x03C, 0x050, 0x05C, 0x060, 0x0FC, 0x128, 0x200, 0x2FC].all fun off =>
      isReserved tc.nPorts off) = true
      ∧ { tc with inbox := [memRead 0x4000 0x4300 4] }.inbox = [memRead 0x4000 (0x4000 + 0x300) 4] := by decide

theorem wit_HostReadsChangeNoState : { h0 with inbox := [.read (-1) 8] }.inbox = [Stimulus.read (-1) 8] := rfl

theorem wit_HostWritesElsewhereThanCmdKeepRoutingAndFramers :
    step { h0 with inbox := [.write 0x008 4 3] } = .next { h0 with ctrl := 3, out := .writeOk } := rfl

theorem wit_ChecksumCoversHeaderAndPayload : encodeFrame Params.tc1 0x01 [0x11, 0x22, 0x33] = some f1 := by decide

/-- Both branches, at `MAX_LEN` and one above it. -/
theorem wit_DecodingAnEncodedFrameGivesItBack :
    (List.replicate 1024 (0 : Byte)).length ≤ Params.tc1.maxLen.toNat
      ∧ (List.replicate 1025 (0 : Byte)).length ≤ 65535
      ∧ ¬(List.replicate 1025 (0 : Byte)).length ≤ Params.tc1.maxLen.toNat := by
  simp only [List.length_replicate]
  decide

theorem wit_ChecksumDetectsAnySingleByteChange :
    xorAll (f1.take 8 ++ [0xFD]) = 0 ∧ 8 ≤ (f1.take 8).length ∧ (f1.take 8 ++ [0xFD])[8]? ≠ some 0xFC
      ∧ (f1.take 8 ++ [0xFD])[0]? ≠ some 0xAB := by decide

theorem wit_DecodeFrameNeverFailsInHaveFrame :
    opensWithSync Params.tc1 f1 ∧ headerLen f1 ≤ Params.tc1.maxLen.toNat ∧ 8 + headerLen f1 ≤ f1.length :=
  ⟨rfl, by decide, by decide⟩

theorem wit_WaitingOperationsChangeNothing :
    ((framer0 .seeking [0xAA] 0).slot 0).buf.length < 2
      ∧ ((framer0 .haveHeader [0xAA, 0x55, 0x01, 0x00] 0).slot 0).buf.length < 5
      ∧ ((framer0 .haveHeader (f1.take 10) 0).slot 0).buf = 0xAA :: 0x55 :: 0x01 :: 0x00 :: 0x03 :: (f1.take 10).drop 5
      ∧ (0x00#8).toNat * 256 + (0x03#8).toNat ≤ Params.tc1.maxLen.toNat
      ∧ ((framer0 .haveHeader (f1.take 10) 0).slot 0).buf.length < 8 + ((0x00#8).toNat * 256 + (0x03#8).toNat) := by
  decide

theorem wit_SyncPairOpensAHeader :
    ((framer0 .seeking [0xAA, 0x55] 0).slot 0).st = .seeking
      ∧ ((framer0 .seeking [0xAA, 0x55] 0).slot 0).buf = Params.tc1.sync0 :: Params.tc1.sync1 :: [] := by decide

theorem wit_ResyncDropsExactlyOneByte :
    ((framer0 .seeking [0xAA, 0xAA] 0).slot 0).buf = 0xAA :: 0xAA :: []
      ∧ (0xAA#8, 0xAA#8) ≠ (Params.tc1.sync0, Params.tc1.sync1) := by decide

theorem wit_LengthOverflowWarnsAndDropsOneByte :
    ((framer0 .haveHeader [0xAA, 0x55, 0x02, 0x04, 0x01] 0).slot 0).buf = 0xAA :: 0x55 :: 0x02 :: 0x04 :: 0x01 :: []
      ∧ Params.tc1.maxLen.toNat < (0x04#8).toNat * 256 + (0x01#8).toNat := by decide

/-- The shortest frame, `L = 0`; and a framer that has yielded. -/
theorem wit_ReadyAndResumeMoveTheStateOnly :
    ((framer0 .haveHeader [0xAA, 0x55, 0, 0, 0, 0xFF, 0x0D, 0x0A] 0).slot 0).buf
        = 0xAA :: 0x55 :: 0 :: 0 :: 0 :: [0xFF, 0x0D, 0x0A]
      ∧ (0#8).toNat * 256 + (0#8).toNat ≤ Params.tc1.maxLen.toNat
      ∧ 8 + ((0#8).toNat * 256 + (0#8).toNat) ≤ [0xAA, 0x55, 0, 0, 0, 0xFF, 0x0D, (0x0A : Byte)].length
      ∧ ((framer0 .yielded [] 0).slot 0).st = .yielded := by decide

/-- A right frame under both gates, and a wrong one under none. -/
theorem wit_EmittedFrameIsDeliveredWhole :
    (((framer0 .haveFrame f1 3).slot 0).buf
        = 0xAA :: 0x55 :: 0x01 :: 0x00 :: 0x03 :: ([0x11, 0x22, 0x33] ++ 0xFD :: 0x0D :: 0x0A :: [])
      ∧ [0x11, 0x22, (0x33 : Byte)].length = (0x00#8).toNat * 256 + (0x03#8).toNat
      ∧ xorAll (0xAA :: 0x55 :: 0x01 :: 0x00 :: 0x03 :: [0x11, 0x22, 0x33]) = 0xFD)
      ∧ ((framer0 .haveFrame badCsum 0).slot 0).buf
        = 0xAA :: 0x55 :: 0x01 :: 0x00 :: 0x03 :: ([0x11, 0x22, 0x34] ++ 0xFD :: 0x0D :: 0x0A :: [])
      ∧ (framer0 .haveFrame badCsum 0).ctrl.getLsbD 0 = false
      ∧ (framer0 .haveFrame badCsum 0).ctrl.getLsbD 1 = false := by decide

/-- Each gate with the flag it looks at false. -/
theorem wit_RejectedFrameDropsOneByte :
    (((framer0 .haveFrame badCsum 1).slot 0).buf
        = 0xAA :: 0x55 :: 0x01 :: 0x00 :: 0x03 :: ([0x11, 0x22, 0x34] ++ 0xFD :: 0x0D :: 0x0A :: [])
      ∧ (framer0 .haveFrame badCsum 1).ctrl.getLsbD 0 = true
      ∧ (xorAll (0xAA :: 0x55 :: 0x01 :: 0x00 :: 0x03 :: [0x11, 0x22, 0x34]) == 0xFD) = false)
      ∧ ((framer0 .haveFrame badTrailer 2).slot 0).buf
        = 0xAA :: 0x55 :: 0x01 :: 0x00 :: 0x03 :: ([0x11, 0x22, 0x33] ++ 0xFD :: 0x0D :: 0x0B :: [])
      ∧ (framer0 .haveFrame badTrailer 2).ctrl.getLsbD 1 = true
      ∧ ((0x0D#8 == Params.tc1.trailer0) && (0x0B#8 == Params.tc1.trailer1)) = false := by decide

/-- A row that waits and a row that does not. -/
theorem wit_FramerStepIsTheSelectedRow :
    SelectedIn (framer0 .haveHeader (f1.take 10) 0) (FramerOp.waitBody.instr 0 7)
      ∧ SelectedIn (framer0 .haveHeader f1 0) (FramerOp.ready.instr 0 7) :=
  ⟨⟨by decide, rfl, by decide, by decide, by decide⟩, ⟨by decide, rfl, by decide, by decide, by decide⟩⟩

theorem wit_EveryFramerStepLowersMu :
    Slot.FrameComplete { bound0 with st := .haveFrame, buf := f1 }
      ∧ ∃ f' evs, framerStep Params.tc1 0 0 7 { bound0 with st := .haveFrame, buf := f1 } = .next f' evs :=
  ⟨fun _ => by decide, _, _, rfl⟩

theorem wit_FramerWaitsExactlyWhenQuiescent :
    framerStep Params.tc1 0 0 7 { bound0 with st := .haveHeader, buf := f1.take 10 } = .wait := by decide

theorem wit_FeedKeepsTheBufferBounded : bound0.Quiet Params.tc1 ∧ f1[10]? = some 0x0A :=
  ⟨.inl ⟨rfl, by decide⟩, by decide⟩

/-- FR-05b against FR-01: one stream in three datagrams and in one. -/
theorem wit_FramingIsIndependentOfTheSplit :
    bound0.Quiet Params.tc1
      ∧ ([(1, f1.take 3), (2, (f1.drop 3).take 4), (3, f1.drop 7)].map Prod.snd).flatten
        = ([(1, f1)].map Prod.snd).flatten := ⟨.inl ⟨rfl, by decide⟩, by decide⟩

/-- FR-03: garbage whose last byte is `SYNC0`, in two datagrams. -/
theorem wit_GarbageWithoutSyncPairThenFrameGivesOneMsg :
    bound0.st = .seeking ∧ bound0.buf = [] ∧ [0x11, 0x22, (0x33 : Byte)].length ≤ Params.tc1.maxLen.toNat
      ∧ encodeFrame Params.tc1 0x01 [0x11, 0x22, 0x33] = some f1
      ∧ ([(1, [0xAA, 0xAA]), (2, f1.drop 1)].map Prod.snd).flatten = [0xAA] ++ f1
      ∧ ∀ k, k < [(0xAA : Byte)].length →
        ¬(([0xAA] ++ f1)[k]? = some Params.tc1.sync0 ∧ ([0xAA] ++ f1)[k + 1]? = some Params.tc1.sync1) := by decide

theorem wit_FeedCostIsLinear : bound0.st = .seeking ∧ bound0.buf = [] := ⟨rfl, rfl⟩

theorem wit_RoutedDatagramFeedsItsSlotOnly :
    h0.status.running = true ∧ 0 < h0.nPorts ∧ (h0.slot 0).bound = some { port := 5000, role := .telemetry }
      ∧ ∀ j k c d, j < h0.nPorts → k < h0.nPorts → j ≠ k → (h0.slot j).bound = some c → (h0.slot k).bound = some d →
        c.port ≠ d.port := ⟨rfl, by decide, rfl, wit_Inv.1.portsDistinct⟩

/-- Stopped; and running with no slot bound to the port. -/
theorem wit_UnroutedDatagramIsCountedAndDropped :
    tc.status.running = false ∧ ∀ i b, i < h0.nPorts → (h0.slot i).bound = some b → b.port ≠ 5001 := by
  refine ⟨rfl, ?_⟩
  rintro (_ | i) b _ h
  · cases h
    decide
  · rw [h0, framer0, slot_running_succ] at h
    cases h

theorem wit_EmptyDatagramCountsOnly : h0.ingressSlot 5000 = some 0 ∧ h0.ingressSlot 5001 = none := by decide

theorem wit_RouteFindsTheUniqueBoundSlot : h0.Inv ∧ h0.route 5000 = some 0 := ⟨wit_Inv.1, by decide⟩

theorem wit_StartWhileRunningIsRefused : h0.status.running = true := rfl

/-- TR-05, TR-06 and TR-07: each cause, at the lowest slot. -/
theorem wit_FailedStartReportsTheLowestSlot :
    ((configured [0x80010000]).CannotBind 1 0 1 ∧ ∀ j c, j < 0 → ¬(configured [0x80010000]).CannotBind 1 j c)
      ∧ ((configured [0x80011388, 0x80031388]).CannotBind 1 1 2
        ∧ ∀ j c, j < 1 → ¬(configured [0x80011388, 0x80031388]).CannotBind 1 j c)
      ∧ ({ configured [0x80021B58] with bindAnswers := [((1, 7000), true)] }.CannotBind 1 0 3
        ∧ ∀ j c, j < 0 → ¬{ configured [0x80021B58] with bindAnswers := [((1, 7000), true)] }.CannotBind 1 j c) := by
  refine ⟨⟨⟨by decide, by decide, .inl (by decide)⟩, nofun⟩,
    ⟨⟨by decide, by decide, .inr (.inl ⟨by decide, ⟨0, by decide⟩, rfl⟩)⟩, ?_⟩,
    ⟨⟨by decide, by decide, .inr (.inr ⟨by decide, fun ⟨j, hj, _⟩ => by omega, by decide, rfl⟩)⟩, nofun⟩⟩
  rintro j c hj ⟨_, _, h⟩
  obtain rfl : j = 0 := by omega
  rcases h with h | h | h
  · exact absurd h.1 (by decide)
  · obtain ⟨k, hk, _⟩ := h.2.1
    omega
  · exact absurd h.2.2.1 (by decide)

theorem wit_SuccessfulStartBindsEverySlot :
    (configured [0x80011388]).status.running = false ∧ ∀ i c, ¬(configured [0x80011388]).CannotBind 1 i c := by
  refine ⟨rfl, ?_⟩
  rintro (_ | i) c ⟨hi, he, h⟩
  · rcases h with h | h | h
    · exact absurd h.1 (by decide)
    · obtain ⟨k, hk, _⟩ := h.2.1
      omega
    · exact absurd h.2.2.1 (by decide)
  · have hlt : i < 3 := Nat.lt_of_succ_lt_succ hi
    interval_cases i <;> exact absurd he (by decide)

theorem wit_StopUnbindsAndIsIdempotent : h0.status.running = true ∧ tc.status.running = false := ⟨rfl, rfl⟩

theorem wit_DeliverHandsOverTheHeadEvent :
    ((running { bound0 with outq := [f1Msg 1] } 0).slot 0).outq = f1Msg 1 :: [] := rfl

/-- An append, a delivery and a reset. -/
theorem wit_OutputQueuesAreFifo :
    (∃ t, step { h0 with inbox := [.dgram 5000 f1 1] } = .next t)
      ∧ (∃ t, step { running { bound0 with outq := [f1Msg 1] } 0 with inbox := [.deliver 0] } = .next t)
      ∧ ∃ t, step { h0 with inbox := [.reset] } = .next t := ⟨⟨_, rfl⟩, ⟨_, rfl⟩, ⟨_, rfl⟩⟩

theorem wit_EveryStepKeepsTheInvariant : h0.Inv ∧ ∃ t, step h0 = .next t := ⟨wit_Inv.1, _, rfl⟩

theorem wit_OnlyLifecycleStepsChangeBinding :
    ∃ t, step { h0 with inbox := [.write 0x00C 4 2] } = .next t ∧ t.status.running ≠ h0.status.running
      ∧ (t.slot 0).bound ≠ (h0.slot 0).bound := ⟨_, rfl, by decide, by decide⟩

theorem wit_PartialFramesNeverTimeOut :
    h0.Inv ∧ ∃ t, step { h0 with inbox := [.dgram 5000 [0xAA] 1] } = .next t
      ∧ (t.slot 0).buf ≠ (h0.slot 0).buf := ⟨wit_Inv.1, _, rfl, by decide⟩

theorem wit_ParametersNeverChange : ∃ t, step { h0 with inbox := [.write 0x00C 4 1] } = .next t := ⟨_, rfl⟩

/-- Two blocks that differ in slot 1. -/
theorem wit_SlotsDoNotInterfere :
    let s := h0
    let s' := { h0 with slots := [bound0, { Slot.reset with portCfg := 0x80021770, rxBytes := 9 }] }
    s.par = s'.par ∧ s.ctrl = s'.ctrl ∧ s.slot 0 = s'.slot 0 ∧ s.ingressSlot 5000 = some 0
      ∧ s'.ingressSlot 5000 = some 0 ∧ (∃ t, exec (.dgramRouted 5000 f1 1) s = .next t)
      ∧ ∃ t, exec (.dgramRouted 5000 f1 1) s' = .next t :=
  ⟨rfl, rfl, rfl, by decide, by decide, ⟨_, rfl⟩, ⟨_, rfl⟩⟩

end Sys2Proof.Machine.Tests
end

section
/-! What a step is, by the inbox and by what the stimulus at its head selects (00 R12), and what the block does with a
stimulus that selects nothing. -/

namespace Sys2Proof.Machine

theorem step_of_inbox_nil {s : State} (hin : s.inbox = []) : step s = .next (s.drive .quiet) := by
  simp only [step, hin]

theorem step_of_select_op {s : State} {x : Stimulus} {rest : List Stimulus} {i : Instr} (hin : s.inbox = x :: rest)
    (hsel : s.select x = .op i) : step s = exec i { s with inbox := rest } := by
  simp only [step, hin, hsel]

theorem step_of_select_rejected {s : State} {x : Stimulus} {rest : List Stimulus} {r : Reject}
    (hin : s.inbox = x :: rest) (hsel : s.select x = .rejected r) :
    step s = .next ({ s with inbox := rest }.unselected r) := by
  simp only [step, hin, hsel]

@[simp] theorem State.unselected_outsideWindow (s : State) : s.unselected .outsideWindow = s.drive .noResponse := rfl

@[simp] theorem State.unselected_noSuchSlot (s : State) : s.unselected .noSuchSlot = s.drive .quiet := rfl

@[simp] theorem State.unselected_nothingQueued (s : State) : s.unselected .nothingQueued = s.drive .quiet := rfl

/-- Settles O1: the equations of `step`, one for each thing the inbox and the selection can be; the three rejections
differ only in the output that `State.unselected` drives. -/
theorem stepRunsTheSelectedOperation : Obligations.StepRunsTheSelectedOperation := by
  intro s
  refine ⟨step_of_inbox_nil, fun x rest hin => ⟨fun i hsel => step_of_select_op hin hsel, ?_, ?_, ?_⟩⟩
  · intro hsel
    rw [step_of_select_rejected hin hsel, State.unselected_outsideWindow, State.drive]
  · intro hsel
    rw [step_of_select_rejected hin hsel, State.unselected_noSuchSlot, State.drive]
  · intro hsel
    rw [step_of_select_rejected hin hsel, State.unselected_nothingQueued, State.drive]

end Sys2Proof.Machine
end

section
/-! Runs of the framer reach quiescence (10 R37, 41 R103, R108): where a framer waits, the measure every step lowers, and
what of the buffer the framer's state promises on the way. -/

namespace Sys2Proof.Machine

variable {p : Params} {ctrl : Word} {i ts : Nat}

/-- Everything a framer that waits can be (41 R91, R94, R96). -/
theorem framerStep_wait_cases {f : Slot} (h : framerStep p ctrl i ts f = .wait) :
    (f.st = .seeking ∧ f.buf.length ≤ 1)
      ∨ (f.st = .haveHeader ∧ f.buf.length < 5)
      ∨ (f.st = .haveHeader ∧ headerLen f.buf ≤ p.maxLen.toNat ∧ f.buf.length < 8 + headerLen f.buf) := by
  unfold framerStep framerChoice framerOp at h
  simp only [← frameLen.eq_1, frameLen_eq_headerLen] at h
  cases hst : f.st with simp only [hst] at h
  | seeking =>
    split_ifs at h
    · exact .inl ⟨rfl, by omega⟩
    all_goals simp [fSync, fDrop] at h
  | haveHeader =>
    split_ifs at h with h5 hl hb
    · exact .inr (.inl ⟨rfl, h5⟩)
    · simp [fLenOvf] at h
    · exact .inr (.inr ⟨rfl, by omega, hb⟩)
    · simp [fReady] at h
  | haveFrame => split_ifs at h <;> simp [fDiscard, fEmit] at h
  | yielded => simp [fResume] at h

@[simp] theorem mu_emit (f : Slot) (evs : List Event) : mu (f.emit evs) = mu f := rfl

/-- Every step that does not wait lowers the measure (41 R103): it consumes a byte, or moves to a state of lower rank. -/
theorem mu_lt_of_framerStep {f f' : Slot} {evs : List Event} (hc : f.FrameComplete)
    (h : framerStep p ctrl i ts f = .next f' evs) : mu f' < mu f := by
  rcases framerStep_cases h with ⟨hs, -, rfl, -⟩ | ⟨hs, hl, -, rfl, -⟩ | ⟨hs, hl, -, rfl, -⟩ | ⟨hs, -, -, -, rfl, -⟩ |
    ⟨hs, -, h⟩ | ⟨hs, -, h⟩ | ⟨hs, rfl, -⟩
  · simp only [mu, rank, hs]
    omega
  · simp only [mu, rank, hs, List.length_drop]
    omega
  · simp only [mu, rank, hs, List.length_drop]
    omega
  · simp only [mu, rank, hs]
    omega
  · obtain ⟨rfl, -⟩ := FramerResult.next.inj h
    have hw := hc hs
    simp only [mu, rank, hs, Slot.buf_drop, buf_countMismatches, List.length_drop, frameLen_eq_headerLen]
    omega
  · obtain ⟨rfl, -⟩ := FramerResult.next.inj h
    have hw := hc hs
    simp only [mu, rank, hs, Slot.buf_drop, buf_countMismatches, List.length_drop]
    omega
  · simp only [mu, rank, hs]
    omega

/-- What the state of a framer promises of its buffer, between steps and inside a run: the sync pair opens a header, and
in HaveFrame the whole frame is present. -/
structure Slot.Framed (p : Params) (f : Slot) : Prop where
  opens : f.st = .haveHeader → opensWithSync p f.buf
  complete : f.FrameComplete

theorem opensWithSync_append {buf : List Byte} (h : opensWithSync p buf) (x : List Byte) :
    opensWithSync p (buf ++ x) := by
  unfold opensWithSync
  rw [List.take_append_of_le_length (opensWithSync_length h)]
  exact h

theorem headerLen_append {buf : List Byte} (h : 5 ≤ buf.length) (x : List Byte) :
    headerLen (buf ++ x) = headerLen buf := by
  rw [← frameLen_eq_headerLen, frameLen_append h, frameLen_eq_headerLen]

theorem Slot.Framed.append {f : Slot} (h : f.Framed p) (b : Byte) : (f.append b).Framed p := by
  refine ⟨fun hs => opensWithSync_append (h.opens hs) [b], fun hs => ?_⟩
  have hw := h.complete hs
  simp only [Slot.buf_append, headerLen_append (show 5 ≤ f.buf.length by omega), List.length_append]
  omega

theorem Slot.Framed.emit {f : Slot} (h : f.Framed p) (evs : List Event) : (f.emit evs).Framed p := ⟨h.opens, h.complete⟩

/-- A framer step makes good what the new state promises: only F_SYNC leads into HaveHeader and only F_READY into
HaveFrame. -/
theorem framed_of_framerStep {f f' : Slot} {evs : List Event} (h : framerStep p ctrl i ts f = .next f' evs) :
    f'.Framed p := by
  rcases framerStep_cases h with ⟨-, ho, rfl, -⟩ | ⟨hs, -, -, rfl, -⟩ | ⟨-, -, -, rfl, -⟩ | ⟨-, -, -, hw, rfl, -⟩ |
    ⟨-, -, h⟩ | ⟨-, -, h⟩ | ⟨-, rfl, -⟩
  · exact ⟨fun _ => ho, nofun⟩
  · exact ⟨fun c => by simp [hs] at c, fun c => by simp [hs] at c⟩
  · exact ⟨nofun, nofun⟩
  · exact ⟨nofun, fun _ => hw⟩
  · obtain ⟨rfl, -⟩ := FramerResult.next.inj h
    exact ⟨nofun, nofun⟩
  · obtain ⟨rfl, -⟩ := FramerResult.next.inj h
    exact ⟨nofun, nofun⟩
  · exact ⟨nofun, nofun⟩

theorem Slot.Quiet.framed {f : Slot} (h : f.Quiet p) : f.Framed p := by
  rcases h with ⟨hs, -⟩ | ⟨hs, ho, -⟩
  · exact ⟨fun c => by simp [hs] at c, fun c => by simp [hs] at c⟩
  · exact ⟨fun _ => ho, fun c => by simp [hs] at c⟩

/-- A framer that waits is quiescent (41 R108). -/
theorem Slot.Framed.quiet_of_wait {f : Slot} (h : f.Framed p) (hw : Machine.framerStep p ctrl i ts f = .wait) :
    f.Quiet p := by
  rcases framerStep_wait_cases hw with hs | ⟨hs, hl⟩ | ⟨hs, hl⟩
  · exact .inl hs
  · exact .inr ⟨hs, h.opens hs, .inl hl⟩
  · exact .inr ⟨hs, h.opens hs, .inr hl⟩

/-- With more fuel than the measure a run ends quiescent (41 R103, R104). -/
theorem Slot.Framed.quiet_runFramer {k : Nat} {f : Slot} (h : f.Framed p) (hk : mu f < k) :
    (runFramer p ctrl i ts k f).Quiet p := by
  induction k generalizing f with
  | zero => omega
  | succ k ih =>
    cases hs : Machine.framerStep p ctrl i ts f with
    | wait => rw [runFramer_wait hs]; exact h.quiet_of_wait hs
    | next f' evs =>
      have hmu := mu_lt_of_framerStep h.complete hs
      rw [runFramer_next hs]
      exact ih ((framed_of_framerStep hs).emit evs) (by rw [mu_emit]; omega)

/-- A feed keeps a framer quiescent (10 R37). -/
theorem Slot.Quiet.feed {f : Slot} (h : f.Quiet p) (data : List Byte) : (feed p ctrl i ts data f).Quiet p := by
  induction data generalizing f with
  | nil => exact h
  | cons b data ih => exact ih ((h.framed.append b).quiet_runFramer (Nat.lt_succ_self _))

end Sys2Proof.Machine
end

section
/-! The events of a framer step and of a feed (30 R69, 41 R98 to R100). -/

namespace Sys2Proof.Machine

variable {p : Params} {ctrl : Word} {i ts : Nat}

/-- Every event of the HaveFrame evaluation is a warning about the frame, and none is FRAME_DISCARDED (41 R98). -/
theorem mem_mismatchWarnings {buf : List Byte} {e : Event} (h : e ∈ mismatchWarnings p i ts buf) :
    ∃ code, code ≠ .frameDiscarded ∧ e = warning i ts buf code := by
  unfold mismatchWarnings at h
  rcases List.mem_append.1 h with h | h <;> split at h
  · cases h
  · exact ⟨.trailerMismatch, nofun, List.mem_singleton.1 h⟩
  · cases h
  · exact ⟨.csumMismatch, nofun, List.mem_singleton.1 h⟩

/-- Everything a framer step can emit: a warning about the header at the head, FRAME_DISCARDED only where a gate rejects
the frame, or the frame's `Msg`, where none does. -/
theorem framerStep_events {f f' : Slot} {evs : List Event} (h : framerStep p ctrl i ts f = .next f' evs) {e : Event}
    (he : e ∈ evs) :
    (∃ code, e = warning i ts f.buf code ∧ (code = .frameDiscarded → rejects p ctrl f.buf = true))
      ∨ (e = frameMsg p i ts f ∧ rejects p ctrl f.buf = false) := by
  have mismatch (h : e ∈ mismatchWarnings p i ts f.buf) :
      ∃ code, e = warning i ts f.buf code ∧ (code = .frameDiscarded → rejects p ctrl f.buf = true) := by
    obtain ⟨code, hne, rfl⟩ := mem_mismatchWarnings h
    exact ⟨code, rfl, fun hc => absurd hc hne⟩
  rcases framerStep_cases h with ⟨-, -, -, rfl⟩ | ⟨-, -, -, -, rfl⟩ | ⟨-, -, -, -, rfl⟩ | ⟨-, -, -, -, -, rfl⟩ |
    ⟨-, hr, h⟩ | ⟨-, hr, h⟩ | ⟨-, -, rfl⟩
  · cases he
  · cases he
  · exact .inl ⟨.lenOverflow, List.mem_singleton.1 he, nofun⟩
  · cases he
  · obtain ⟨-, rfl⟩ := FramerResult.next.inj h
    rcases List.mem_append.1 he with he | he
    · exact .inl (mismatch he)
    · exact .inr ⟨List.mem_singleton.1 he, hr⟩
  · obtain ⟨-, rfl⟩ := FramerResult.next.inj h
    rcases List.mem_append.1 he with he | he
    · exact .inl (mismatch he)
    · exact .inl ⟨.frameDiscarded, List.mem_singleton.1 he, fun _ => hr⟩
  · cases he

/-- A relation between the events emitted and the slot reached, which an appended byte and a framer step keep, holds of
the events that a feed appends and of the slot in which it ends. -/
theorem feed_emitted {R : List Event → Slot → Prop} (append : ∀ evs g b, R evs g → R evs (g.append b))
    (step : ∀ evs g g' new, R evs g → framerStep p ctrl i ts g = .next g' new → R (evs ++ new) (g'.emit new))
    (data : List Byte) (f : Slot) (h : R [] f) :
    ∃ evs, (feed p ctrl i ts data f).outq = f.outq ++ evs ∧ R evs (feed p ctrl i ts data f) :=
  feed_induction (P := fun g => ∃ evs, g.outq = f.outq ++ evs ∧ R evs g)
    (fun g b ⟨evs, hq, hr⟩ => ⟨evs, hq, append evs g b hr⟩)
    (fun g g' new ⟨old, hq, hr⟩ hs => by
      obtain ⟨-, -, -, -, hq'⟩ := framerStep_frame hs
      exact ⟨old ++ new, by rw [Slot.outq_emit, hq', hq, List.append_assoc], step old g g' new hr hs⟩)
    data f ⟨[], (List.append_nil _).symm, h⟩

/-- What holds of every event that a framer step emits, holds of every event that a feed appends. -/
theorem feed_events {Q : Event → Prop}
    (step : ∀ f f' evs, framerStep p ctrl i ts f = .next f' evs → ∀ e ∈ evs, Q e) (data : List Byte) (f : Slot) :
    ∃ evs, (feed p ctrl i ts data f).outq = f.outq ++ evs ∧ ∀ e ∈ evs, Q e :=
  feed_emitted (R := fun evs _ => ∀ e ∈ evs, Q e) (fun _ _ _ h => h)
    (fun _ g g' new h hs e he => (List.mem_append.1 he).elim (h e) (step g g' new hs e))
    data f nofun

end Sys2Proof.Machine
end

section
/-! The invariant of one slot (10 R25, R37, 30 R69) under what the operations do to a slot. -/

namespace Sys2Proof.Machine

variable {p : Params} {ctrl : Word} {i ts : Nat} {f : Slot}

/-- Masking a value leaves none of the bits outside the mask. -/
theorem and_mask_and_not (v m : Word) : v &&& m &&& ~~~m = 0 := by
  rw [BitVec.and_assoc, BitVec.and_not_self]
  exact BitVec.and_zero

/-- Every event that a framer step emits is well formed: the flag and both checksums of a `Msg`, and its payload and
length, come from one decoding of the frame. -/
theorem ok_of_framerStep (hts : ts < 2 ^ p.tsW) {f' : Slot} {evs : List Event}
    (h : framerStep p ctrl i ts f = .next f' evs) : ∀ e ∈ evs, e.Ok p i := by
  intro e he
  rcases framerStep_events h he with ⟨code, rfl, -⟩ | ⟨rfl, -⟩
  · exact ⟨rfl, hts⟩
  · exact ⟨rfl, hts, length_slice _ _ _, rfl⟩

theorem Slot.ok_reset (p : Params) (i : Nat) : Slot.reset.Ok p i :=
  ⟨.inl ⟨rfl, Nat.zero_le _⟩, fun _ => ⟨rfl, rfl⟩, BitVec.zero_and, nofun⟩

/-- The slot's configuration is no part of its invariant but for the reserved bits. -/
theorem Slot.Ok.writePortCfg (h : f.Ok p i) (v : Word) : Slot.Ok p i { f with portCfg := v &&& portCfgMask } := by
  obtain ⟨hq, hu, -, he⟩ := h
  exact ⟨hq, hu, and_mask_and_not v portCfgMask, he⟩

/-- Handing over the head event leaves the later ones as they are. -/
theorem Slot.Ok.deliver (h : f.Ok p i) {e : Event} {rest : List Event} (hq : f.outq = e :: rest) :
    Slot.Ok p i { f with outq := rest } := by
  obtain ⟨hquiet, hu, hc, he⟩ := h
  exact ⟨hquiet, hu, hc, fun x hx => he x (by rw [hq]; exact List.mem_cons_of_mem e hx)⟩

/-- A fresh framer is quiescent and empty, bound or not. -/
theorem Slot.Ok.start (h : f.Ok p i) (b : Option Binding) : (f.start b).Ok p i := by
  obtain ⟨-, -, hc, he⟩ := h
  exact ⟨.inl ⟨rfl, Nat.zero_le _⟩, fun _ => ⟨rfl, rfl⟩, hc, he⟩

theorem Slot.Ok.stop (h : f.Ok p i) : f.stop.Ok p i := by
  obtain ⟨-, -, hc, he⟩ := h
  exact ⟨.inl ⟨rfl, Nat.zero_le _⟩, fun _ => ⟨rfl, rfl⟩, hc, he⟩

@[simp] theorem bound_receive (data : List Byte) : (receive p ctrl i ts data f).bound = f.bound := by
  obtain ⟨-, hb, -⟩ := feed_frame (p := p) (ctrl := ctrl) (i := i) (ts := ts) data
    { f with rxDgrams := inc f.rxDgrams, rxBytes := add f.rxBytes data.length }
  exact hb

/-- A feed keeps a bound slot well: it ends quiescent, and what it queues is well formed. -/
theorem Slot.Ok.feed (h : f.Ok p i) (hb : f.bound ≠ none) (hts : ts < 2 ^ p.tsW) (data : List Byte) :
    (feed p ctrl i ts data f).Ok p i := by
  obtain ⟨hq, -, hc, he⟩ := h
  obtain ⟨hcfg, hbound, -⟩ := feed_frame (p := p) (ctrl := ctrl) (i := i) (ts := ts) data f
  obtain ⟨evs, houtq, hevs⟩ := feed_events (p := p) (ctrl := ctrl) (i := i) (ts := ts)
    (fun _ _ _ hs => ok_of_framerStep hts hs) data f
  refine ⟨hq.feed data, fun hn => absurd (hbound.symm.trans hn) hb, by rw [hcfg, hc], fun e hmem => ?_⟩
  rw [houtq] at hmem
  exact (List.mem_append.1 hmem).elim (he e) (hevs e)

/-- The receive counters are no part of the invariant, so a datagram keeps a bound slot well as its feed does. -/
theorem Slot.Ok.receive (h : f.Ok p i) (hb : f.bound ≠ none) (hts : ts < 2 ^ p.tsW) (data : List Byte) :
    (receive p ctrl i ts data f).Ok p i :=
  Slot.Ok.feed (f := { f with rxDgrams := inc f.rxDgrams, rxBytes := add f.rxBytes data.length }) h hb hts data

end Sys2Proof.Machine
end

section
/-! The invariant of the whole state (10 R36, R37): what it takes from a state to its successor. -/

namespace Sys2Proof.Machine

variable {s t : State}

/-- What `STATUS` says of a START that failed, and of one that did not (10 R29): the last part of `State.Inv`. -/
def Status.FailReported (u : Status) : Prop :=
  if u.startFail then u.failCause ≠ 0 else u.failSlot = 0 ∧ u.failCause = 0

theorem State.Inv.statusReported (h : s.Inv) : s.status.FailReported := h.failReported

/-- Clearing the failure clears the slot and the cause with it (43 R146). -/
theorem Status.FailReported.cleared {u : Status} (h : u.FailReported) (v : Word) : (u.cleared v).FailReported := by
  unfold Status.FailReported Status.cleared
  cases v.getLsbD 1 with
  | true => exact ⟨rfl, rfl⟩
  | false => exact h

theorem BindCause.bits_ne_zero (c : BindCause) : c.bits ≠ 0 := by cases c <;> decide

/-- Where no slot is bound, the invariant asks nothing of the ports. -/
theorem State.inv_of_unbound (hok : ∀ i, i < s.nPorts → (s.slot i).Ok s.par i)
    (hb : ∀ i, i < s.nPorts → (s.slot i).bound = none) (hc : s.ctrl &&& ~~~ctrlMask = 0)
    (hf : s.status.FailReported) : s.Inv where
  slotsOk := hok
  portsDistinct i j b c hi _ _ hib _ := by rw [hb i hi] at hib; cases hib
  portsNonzero i b hi hib := by rw [hb i hi] at hib; cases hib
  stoppedUnbound _ := hb
  ctrlReserved := hc
  failReported := hf

/-- Where `RUNNING` and every binding are as before, what the invariant says of them is as before. -/
theorem State.Inv.of_bound_eq (h : s.Inv) (hn : t.nPorts = s.nPorts) (hr : t.status.running = s.status.running)
    (hb : ∀ i, (t.slot i).bound = (s.slot i).bound) (hok : ∀ i, i < s.nPorts → (t.slot i).Ok t.par i)
    (hc : t.ctrl &&& ~~~ctrlMask = 0) (hf : t.status.FailReported) : t.Inv where
  slotsOk := by rw [hn]; exact hok
  portsDistinct := by simp only [hn, hb]; exact h.portsDistinct
  portsNonzero := by simp only [hn, hb]; exact h.portsNonzero
  stoppedUnbound := by simp only [hn, hb, hr]; exact h.stoppedUnbound
  ctrlReserved := hc
  failReported := hf

/-- A step that leaves the slots and `RUNNING` alone keeps the invariant if `CTRL` and `STATUS` keep theirs. -/
theorem State.Inv.of_slots_eq (h : s.Inv) (hp : t.par = s.par) (hs : t.slots = s.slots)
    (hr : t.status.running = s.status.running) (hc : t.ctrl &&& ~~~ctrlMask = 0) (hf : t.status.FailReported) :
    t.Inv :=
  h.of_bound_eq (by rw [State.nPorts, hs, State.nPorts]) hr (fun i => by rw [slot_congr hs])
    (fun i hi => by rw [slot_congr hs, hp]; exact h.slotsOk i hi) hc hf

/-- Rewriting one slot leaves every binding as it was, if it leaves that slot's. -/
theorem bound_mapSlot {i : Nat} {g : Slot → Slot} (hb : (g (s.slot i)).bound = (s.slot i).bound) (j : Nat) :
    ((s.mapSlot i g).slot j).bound = (s.slot j).bound := by
  rcases slot_mapSlot_cases s i j g with ⟨rfl, -, e⟩ | e
  · rw [e, hb]
  · rw [e]

/-- Rewriting one slot keeps the invariant if the slot stays well and bound as it was. -/
theorem State.Inv.mapSlot (h : s.Inv) {i : Nat} {g : Slot → Slot} (hb : (g (s.slot i)).bound = (s.slot i).bound)
    (hok : i < s.nPorts → (g (s.slot i)).Ok s.par i) : (s.mapSlot i g).Inv := by
  refine h.of_bound_eq (nPorts_mapSlot s i g) rfl (bound_mapSlot hb) (fun j hj => ?_) h.ctrlReserved h.statusReported
  rcases slot_mapSlot_cases s i j g with ⟨rfl, -, e⟩ | e
  · rw [e]
    exact hok hj
  · rw [e]
    exact h.slotsOk j hj

/-- The invariant does not speak of the interface outputs. -/
theorem State.Inv.drive (h : s.Inv) (o : Out) : (s.drive o).Inv :=
  h.of_slots_eq rfl rfl rfl h.ctrlReserved h.statusReported

/-- The invariant does not speak of the agents' steps to come. -/
theorem State.Inv.withInbox (h : s.Inv) (xs : List Stimulus) : State.Inv { s with inbox := xs } :=
  h.of_slots_eq rfl rfl rfl h.ctrlReserved h.statusReported

/-! ### START, STOP and reset -/

theorem latched_eq_some {c : Word} {b : Binding} (h : latched c = some b) : cfgEn c = true ∧ b.port = cfgPort c := by
  unfold latched at h
  cases he : cfgEn c with
  | false => simp [he] at h
  | true =>
    simp only [he, if_true, Option.some.injEq] at h
    exact ⟨rfl, by rw [← h]⟩

/-- An enabled slot that the check passes has a nonzero port, and no lower enabled slot has the same (42 R126). -/
theorem bindCheck_passes {a i : Nat} (h : s.bindCheck a = none) (hi : i < s.nPorts)
    (he : cfgEn (s.slot i).portCfg = true) :
    cfgPort (s.slot i).portCfg ≠ 0
      ∧ ∀ j, j < i → cfgEn (s.slot j).portCfg = true → cfgPort (s.slot j).portCfg ≠ cfgPort (s.slot i).portCfg := by
  have hno := bindCheck_eq_none.1 h i
  have h0 : cfgPort (s.slot i).portCfg ≠ 0 := fun h0 => hno 1 ⟨hi, he, .inl ⟨h0, rfl⟩⟩
  exact ⟨h0, fun j hj hej hp => hno 2 ⟨hi, he, .inr (.inl ⟨h0, ⟨j, hj, hej, hp⟩, rfl⟩)⟩⟩

/-- A START that finds every enabled slot bindable latches distinct, nonzero ports into fresh slots (42 R126, R128). -/
theorem State.Inv.startOk (h : s.Inv) {a : Nat} (hcheck : s.bindCheck a = none) : s.startOk.Inv := by
  have hn : s.startOk.nPorts = s.nPorts := List.length_map _
  have hslot {i : Nat} (hi : i < s.nPorts) : s.startOk.slot i = (s.slot i).start (latched (s.slot i).portCfg) :=
    slot_of_map (g := fun f => f.start (latched f.portCfg)) rfl hi
  have hlatched {i : Nat} {b : Binding} (hi : i < s.nPorts) (hb : (s.startOk.slot i).bound = some b) :
      cfgEn (s.slot i).portCfg = true ∧ b.port = cfgPort (s.slot i).portCfg := by
    rw [hslot hi] at hb
    exact latched_eq_some hb
  constructor
  case slotsOk =>
    intro i hi
    rw [hn] at hi
    rw [hslot hi]
    exact (h.slotsOk i hi).start _
  case portsDistinct =>
    intro i j b c hi hj hij hb hc
    rw [hn] at hi hj
    obtain ⟨hei, hbp⟩ := hlatched hi hb
    obtain ⟨hej, hcp⟩ := hlatched hj hc
    rw [hbp, hcp]
    rcases Nat.lt_or_gt_of_ne hij with hlt | hlt
    · exact (bindCheck_passes hcheck hj hej).2 i hlt hei
    · exact ((bindCheck_passes hcheck hi hei).2 j hlt hej).symm
  case portsNonzero =>
    intro i b hi hb
    rw [hn] at hi
    obtain ⟨he, hbp⟩ := hlatched hi hb
    rw [hbp]
    exact (bindCheck_passes hcheck hi he).1
  case stoppedUnbound => exact nofun
  case ctrlReserved => exact h.ctrlReserved
  case failReported => exact h.failReported

theorem State.Inv.startCommand (h : s.Inv) : s.startCommand.Inv := by
  rcases startCommand_cases s with ⟨-, e⟩ | ⟨-, i, cause, -, e⟩ | ⟨-, hcheck, e⟩ <;> rw [e]
  · exact h.of_slots_eq rfl rfl rfl h.ctrlReserved h.statusReported
  · exact h.of_slots_eq rfl rfl rfl h.ctrlReserved (BindCause.bits_ne_zero cause)
  · have hattempt : State.Inv { s with attempt := s.attempt + 1 } :=
      h.of_slots_eq rfl rfl rfl h.ctrlReserved h.statusReported
    exact hattempt.startOk hcheck

theorem State.Inv.stopCommand (h : s.Inv) : s.stopCommand.Inv := by
  rcases stopCommand_cases s with ⟨-, e⟩ | ⟨-, e⟩ <;> rw [e]
  · have hn (i : Nat) (hi : i < (s.slots.map Slot.stop).length) : i < s.nPorts := by
      rwa [List.length_map] at hi
    refine State.inv_of_unbound (fun i hi => ?_) (fun i hi => ?_) h.ctrlReserved h.statusReported
    · rw [slot_of_map (s := s) (g := Slot.stop) rfl (hn i hi)]
      exact (h.slotsOk i (hn i hi)).stop
    · rw [slot_of_map (s := s) (g := Slot.stop) rfl (hn i hi), Slot.bound_stop]
  · exact h

/-- A block in which every slot and register is as after reset meets the invariant. -/
theorem State.inv_of_reset (hs : ∀ i, i < s.nPorts → s.slot i = Slot.reset) (hc : s.ctrl = 0)
    (hst : s.status = Status.reset) : s.Inv := by
  refine State.inv_of_unbound (fun i hi => ?_) (fun i hi => ?_) ?_ ?_
  · rw [hs i hi]
    exact Slot.ok_reset _ _
  · rw [hs i hi, Slot.bound_reset]
  · rw [hc]
    exact BitVec.zero_and
  · rw [hst]
    exact ⟨rfl, rfl⟩

theorem slot_reset (i : Nat) : State.reset.slot i = Slot.reset := by
  rcases Nat.lt_or_ge i State.reset.nPorts with h | h
  · rw [slot_of_lt _ h]
    exact List.getElem_replicate h
  · exact slot_of_ge _ h

/-! ### The step -/

theorem State.stamp_lt (s : State) (ts : Nat) : s.stamp ts < 2 ^ s.par.tsW := Nat.mod_lt _ (Nat.two_pow_pos _)

/-- Everything a step can do keeps the invariant. A framer step on its own is none of it: a quiescent framer waits. -/
theorem Stepped.inv (h : Stepped s t) (hinv : s.Inv) : t.Inv := by
  have hin := hinv.withInbox s.inbox.tail
  cases h with
  | answered o _ => exact hin.drive o
  | wrCtrl v _ => exact hinv.of_slots_eq rfl rfl rfl (and_mask_and_not v ctrlMask) hinv.statusReported
  | wrStatus v _ => exact hinv.of_slots_eq rfl rfl rfl hinv.ctrlReserved (hinv.statusReported.cleared v)
  | wrPortCfg _ i v _ _ => exact (hin.mapSlot rfl fun hi => (hin.slotsOk i hi).writePortCfg v).drive _
  | cmdIllegal _ _ _ => exact hinv.of_slots_eq rfl rfl rfl hinv.ctrlReserved hinv.statusReported
  | start _ _ _ => exact hin.startCommand.drive _
  | stop _ _ _ => exact hin.stopCommand.drive _
  | framer i ts f evs _ hi taken =>
    obtain ⟨hquiet, -⟩ := hinv.slotsOk i hi
    rw [hquiet.framerStep] at taken
    cases taken
  | routed port data ts i _ route =>
    obtain ⟨-, hroute⟩ := ingressSlot_eq_some.1 route
    obtain ⟨hi, ⟨b, hb, -⟩, -⟩ := route_eq_some hroute
    have hok := (hinv.slotsOk i hi).receive (ctrl := s.ctrl) (by rw [hb]; exact nofun) (s.stamp_lt ts) data
    exact (hin.mapSlot (bound_receive data) fun _ => hok).drive _
  | unrouted _ _ _ _ _ => exact hinv.of_slots_eq rfl rfl rfl hinv.ctrlReserved hinv.statusReported
  | deliver i e rest _ _ queued => exact (hin.mapSlot rfl fun hi => (hin.slotsOk i hi).deliver queued).drive _
  | reset _ =>
    exact State.inv_of_reset
      (fun i hi => slot_of_map (s := s) (g := fun _ => Slot.reset) rfl (by rwa [State.nPorts, List.length_map] at hi))
      rfl rfl

end Sys2Proof.Machine
end

section
/-! The invariant at reset and along every step: O54 and O55. -/

namespace Sys2Proof.Machine

/-- Settles O55, by the cases of what a step can do. -/
theorem everyStepKeepsTheInvariant : Obligations.EveryStepKeepsTheInvariant :=
  fun _ _ hinv h => (step_cases h).inv hinv

/-- Settles O54: every slot of the state after reset is one right after reset. -/
theorem invariantHoldsAtReset : Obligations.InvariantHoldsAtReset :=
  State.inv_of_reset (fun i _ => slot_reset i) rfl rfl

end Sys2Proof.Machine
end

section
/-! The event counters (10 R24, R30): the counters of a slot grow by the events that it queues. -/

namespace Sys2Proof.Machine

variable {p : Params} {ctrl : Word} {i ts : Nat}

/-- From slot `f` to slot `g`, each event counter grows by the number of its own events in `evs`. -/
structure Slot.Counts (f : Slot) (evs : List Event) (g : Slot) : Prop where
  framesOk : g.framesOk = add f.framesOk (evs.countP Event.isMsg)
  lenOvf : g.lenOvf = add f.lenOvf (evs.countP (Event.hasCode .lenOverflow))
  trailerErr : g.trailerErr = add f.trailerErr (evs.countP (Event.hasCode .trailerMismatch))
  csumErr : g.csumErr = add f.csumErr (evs.countP (Event.hasCode .csumMismatch))
  discarded : g.discarded = add f.discarded (evs.countP (Event.hasCode .frameDiscarded))

@[simp] theorem add_zero_count (c : Word) : add c 0 = c := BitVec.add_zero c

@[simp] theorem add_one_count (c : Word) : add c 1 = inc c := rfl

theorem add_add (c : Word) (m n : Nat) : add (add c m) n = add c (m + n) := by
  simp only [add, BitVec.add_assoc, BitVec.ofNat_add]

/-- Counting one list of events after another is counting both. -/
theorem Slot.Counts.trans {f g h : Slot} {evs evs' : List Event} (hg : f.Counts evs g) (hh : g.Counts evs' h) :
    f.Counts (evs ++ evs') h where
  framesOk := by rw [hh.framesOk, hg.framesOk, add_add, List.countP_append]
  lenOvf := by rw [hh.lenOvf, hg.lenOvf, add_add, List.countP_append]
  trailerErr := by rw [hh.trailerErr, hg.trailerErr, add_add, List.countP_append]
  csumErr := by rw [hh.csumErr, hg.csumErr, add_add, List.countP_append]
  discarded := by rw [hh.discarded, hg.discarded, add_add, List.countP_append]

/-- Where no event is emitted, a slot with the same event counters counts rightly. -/
theorem Slot.counts_nil {f g : Slot} (h1 : g.framesOk = f.framesOk) (h2 : g.lenOvf = f.lenOvf)
    (h3 : g.trailerErr = f.trailerErr) (h4 : g.csumErr = f.csumErr) (h5 : g.discarded = f.discarded) :
    f.Counts [] g := by
  constructor <;> simpa

@[simp] theorem isMsg_warning (buf : List Byte) (code : WarnCode) : (warning i ts buf code).isMsg = false := rfl

@[simp] theorem hasCode_warning (buf : List Byte) (code c : WarnCode) :
    (warning i ts buf code).hasCode c = (code == c) := rfl

@[simp] theorem isMsg_frameMsg (f : Slot) : (frameMsg p i ts f).isMsg = true := rfl

@[simp] theorem hasCode_frameMsg (f : Slot) (c : WarnCode) : (frameMsg p i ts f).hasCode c = false := rfl

/-- The HaveFrame evaluation counts each mismatch that it warns about: the trailer's, then the checksum's (41 R98). -/
theorem counts_countMismatches (f : Slot) : f.Counts (mismatchWarnings p i ts f.buf) (countMismatches p f) := by
  have trailer : f.Counts (if trailerOk p f.buf then [] else [warning i ts f.buf .trailerMismatch])
      { countMismatches p f with csumErr := f.csumErr } := by
    cases ht : trailerOk p f.buf with
    | true => exact Slot.counts_nil rfl rfl (by simp [countMismatches, ht]) rfl rfl
    | false => constructor <;> simp [countMismatches, ht]
  have csum : Slot.Counts { countMismatches p f with csumErr := f.csumErr }
      (if csumOk f.buf then [] else [warning i ts f.buf .csumMismatch]) (countMismatches p f) := by
    cases hc : csumOk f.buf with
    | true => exact Slot.counts_nil rfl rfl rfl (by simp [countMismatches, hc]) rfl
    | false => constructor <;> simp [countMismatches, hc]
  exact trailer.trans csum

/-- Every framer step counts the events that it emits, each on its own counter (41 R95, R98 to R100). -/
theorem counts_of_framerStep {f f' : Slot} {evs : List Event} (h : framerStep p ctrl i ts f = .next f' evs) :
    f.Counts evs f' := by
  rcases framerStep_cases h with ⟨-, -, rfl, rfl⟩ | ⟨-, -, -, rfl, rfl⟩ | ⟨-, -, -, rfl, rfl⟩ |
    ⟨-, -, -, -, rfl, rfl⟩ | ⟨-, -, h⟩ | ⟨-, -, h⟩ | ⟨-, rfl, rfl⟩
  · exact Slot.counts_nil rfl rfl rfl rfl rfl
  · exact Slot.counts_nil rfl rfl rfl rfl rfl
  · constructor <;> simp
  · exact Slot.counts_nil rfl rfl rfl rfl rfl
  · obtain ⟨rfl, rfl⟩ := FramerResult.next.inj h
    refine (counts_countMismatches f).trans ?_
    constructor <;> simp
  · obtain ⟨rfl, rfl⟩ := FramerResult.next.inj h
    refine (counts_countMismatches f).trans ?_
    constructor <;> simp
  · exact Slot.counts_nil rfl rfl rfl rfl rfl

/-- The buffer and the queue are no part of what the counters say. -/
theorem Slot.Counts.congr {f g h : Slot} {evs : List Event} (hc : f.Counts evs g)
    (hh : h = { g with buf := h.buf, outq := h.outq }) : f.Counts evs h := by
  obtain ⟨h1, h2, h3, h4, h5⟩ := hc
  rw [hh]
  exact ⟨h1, h2, h3, h4, h5⟩

/-- A feed counts the events that it appends (10 R24). -/
theorem feed_counts (data : List Byte) (f : Slot) :
    ∃ evs, (feed p ctrl i ts data f).outq = f.outq ++ evs ∧ f.Counts evs (feed p ctrl i ts data f) :=
  feed_emitted (R := f.Counts) (fun _ _ _ hc => hc.congr rfl)
    (fun _ _ _ _ hc hs => (hc.trans (counts_of_framerStep hs)).congr rfl)
    data f (Slot.counts_nil rfl rfl rfl rfl rfl)

end Sys2Proof.Machine
end

section
/-! The gates (10 R28, 41 R98): what they ask of a frame that is delivered, and of one that is discarded. -/

namespace Sys2Proof.Machine

variable {p : Params} {ctrl : Word} {i ts : Nat}

/-- A frame that no gate rejects has the flag of every enabled gate true (41 R98). -/
theorem flags_of_not_rejects {buf : List Byte} (h : rejects p ctrl buf = false) :
    (ctrl.getLsbD 0 = true → csumOk buf = true) ∧ (ctrl.getLsbD 1 = true → trailerOk p buf = true) := by
  simp only [rejects, gateCsum, gateTrailer, Bool.or_eq_false_iff, Bool.and_eq_false_imp, Bool.not_eq_false'] at h
  exact h

/-- Only an enabled gate rejects a frame (41 R98). -/
theorem gate_of_rejects {buf : List Byte} (h : rejects p ctrl buf = true) :
    ctrl.getLsbD 0 = true ∨ ctrl.getLsbD 1 = true := by
  simp only [rejects, gateCsum, gateTrailer, Bool.or_eq_true, Bool.and_eq_true] at h
  exact h.imp And.left And.left

/-- An event that the gates of `ctrl` let out at time `ts` (10 R28, 41 R100, R110). -/
def Event.Gated (ctrl : Word) (ts : Nat) : Event → Prop
  | .msg m => m.ts = ts ∧ (ctrl.getLsbD 0 = true → m.csumOk = true) ∧ (ctrl.getLsbD 1 = true → m.trailerOk = true)
  | .warn w => w.ts = ts ∧ (w.code = .frameDiscarded → ctrl.getLsbD 0 = true ∨ ctrl.getLsbD 1 = true)

/-- Every framer step emits only what the gates let out: a `Msg` where no gate rejects the frame, FRAME_DISCARDED where
one does. -/
theorem gated_of_framerStep {f f' : Slot} {evs : List Event} (h : framerStep p ctrl i ts f = .next f' evs) :
    ∀ e ∈ evs, e.Gated ctrl ts := by
  intro e he
  rcases framerStep_events h he with ⟨code, rfl, hd⟩ | ⟨rfl, hr⟩
  · exact ⟨rfl, fun hc => gate_of_rejects (hd hc)⟩
  · exact ⟨rfl, flags_of_not_rejects hr⟩

end Sys2Proof.Machine
end

section
/-! What keeps `RUNNING` and `BOUND` (10 R27), and what keeps the build (10 R35). -/

namespace Sys2Proof.Machine

/-- `RUNNING` and every entry of `BOUND` are in `t` as they are in `s`. -/
def State.SameBinding (s t : State) : Prop :=
  t.status.running = s.status.running ∧ ∀ i, (t.slot i).bound = (s.slot i).bound

/-- Rewriting one slot, and taking a stimulus and driving an output, keeps the binding if that slot's is kept. -/
theorem sameBinding_mapSlot {s : State} {xs : List Stimulus} {i : Nat} {g : Slot → Slot} {o : Out}
    (hb : (g (s.slot i)).bound = (s.slot i).bound) :
    s.SameBinding (({ s with inbox := xs }.mapSlot i g).drive o) :=
  ⟨rfl, bound_mapSlot (s := { s with inbox := xs }) hb⟩

/-- A step keeps `RUNNING` and `BOUND`, or is reset, START or STOP (10 R27). -/
theorem Stepped.sameBinding {s t : State} (h : Stepped s t) :
    s.SameBinding t ∨ s.inbox.head? = some .reset
      ∨ ∃ v : Word, s.inbox.head? = some (.write 0x00C 4 v) ∧ (v.toNat % 4 = 1 ∨ v.toNat % 4 = 2) := by
  cases h with
  | start v head code => exact .inr (.inr ⟨v, head, .inl code⟩)
  | stop v head code => exact .inr (.inr ⟨v, head, .inr code⟩)
  | reset head => exact .inr (.inl head)
  | wrPortCfg | deliver => exact .inl (sameBinding_mapSlot rfl)
  | routed => exact .inl (sameBinding_mapSlot (bound_receive _))
  | framer i ts f evs _ _ taken =>
    obtain ⟨-, hb, -⟩ := framerStep_frame taken
    exact .inl (sameBinding_mapSlot hb)
  | answered | wrCtrl | wrStatus | cmdIllegal | unrouted => exact .inl ⟨rfl, fun _ => rfl⟩

/-- The build's parameters, the number of slots, the platform's answers and the agents' steps to come are in `t` as they
are in `s`. -/
structure State.SameBuild (s t : State) : Prop where
  par : t.par = s.par
  nPorts : t.nPorts = s.nPorts
  bindAnswers : t.bindAnswers = s.bindAnswers
  inbox : t.inbox = s.inbox

/-- START keeps the build, and counts an attempt unless it is refused (10 R33, 42 R125). -/
theorem startCommand_sameBuild (s : State) :
    s.SameBuild s.startCommand ∧ (s.startCommand.attempt = s.attempt ∨ s.startCommand.attempt = s.attempt + 1) := by
  rcases startCommand_cases s with ⟨-, e⟩ | ⟨-, i, cause, -, e⟩ | ⟨-, -, e⟩ <;> rw [e]
  · exact ⟨⟨rfl, rfl, rfl, rfl⟩, .inl rfl⟩
  · exact ⟨⟨rfl, rfl, rfl, rfl⟩, .inr rfl⟩
  · exact ⟨⟨rfl, List.length_map _, rfl, rfl⟩, .inr rfl⟩

theorem stopCommand_sameBuild (s : State) : s.SameBuild s.stopCommand ∧ s.stopCommand.attempt = s.attempt := by
  rcases stopCommand_cases s with ⟨-, e⟩ | ⟨-, e⟩ <;> rw [e]
  · exact ⟨⟨rfl, List.length_map _, rfl, rfl⟩, rfl⟩
  · exact ⟨⟨rfl, rfl, rfl, rfl⟩, rfl⟩

end Sys2Proof.Machine
end

section
/-! The settled statements on counters, gates, binding and the build: O41, O42, O57 and O59. -/

namespace Sys2Proof.Machine

/-- Settles O41, by the induction over the feed in `feed_counts`; the receive counters are in the feed's frame. -/
theorem countersCountTheirEvents : Obligations.CountersCountTheirEvents := by
  intro p ctrl i ts data f
  obtain ⟨evs, hq, h1, h2, h3, h4, h5⟩ := feed_counts (p := p) (ctrl := ctrl) (i := i) (ts := ts) data f
  obtain ⟨-, -, hdgrams, hbytes⟩ := feed_frame (p := p) (ctrl := ctrl) (i := i) (ts := ts) data f
  exact ⟨evs, hq, h1, h2, h3, h4, h5, hdgrams, hbytes⟩

/-- Settles O42: every event that a framer step emits is one that the gates let out, so every event of a feed is. -/
theorem gatesDecideWhatIsDelivered : Obligations.GatesDecideWhatIsDelivered := by
  intro p ctrl i ts data f
  obtain ⟨evs, hq, hgated⟩ := feed_events (p := p) (ctrl := ctrl) (i := i) (ts := ts)
    (fun _ _ _ hs => gated_of_framerStep hs) data f
  exact ⟨evs, hq, fun m hm => hgated _ hm, fun w hw => hgated _ hw⟩

/-- Settles O57, by the cases of what a step can do. -/
theorem onlyLifecycleStepsChangeBinding : Obligations.OnlyLifecycleStepsChangeBinding := by
  intro s t i h hchange
  rcases (step_cases h).sameBinding with ⟨hr, hb⟩ | hcause
  · exact absurd hchange (not_or.2 ⟨not_not.2 hr, not_not.2 (hb i)⟩)
  · exact hcause

/-- Settles O59, by the cases of what a step can do. -/
theorem parametersNeverChange : Obligations.ParametersNeverChange := by
  intro s t h
  cases step_cases h with
  | start =>
    obtain ⟨⟨hp, hn, hb, hi⟩, ha⟩ := startCommand_sameBuild { s with inbox := s.inbox.tail }
    exact ⟨hp, hn, hb, hi, ha.imp_right .inl⟩
  | stop =>
    obtain ⟨⟨hp, hn, hb, hi⟩, ha⟩ := stopCommand_sameBuild { s with inbox := s.inbox.tail }
    exact ⟨hp, hn, hb, hi, .inl ha⟩
  | reset => exact ⟨rfl, List.length_map _, rfl, rfl, .inr (.inr rfl)⟩
  | wrPortCfg | framer | routed | deliver => exact ⟨rfl, nPorts_mapSlot _ _ _, rfl, rfl, .inl rfl⟩
  | answered | wrCtrl | wrStatus | cmdIllegal | unrouted => exact ⟨rfl, rfl, rfl, rfl, .inl rfl⟩

end Sys2Proof.Machine
end

section
/-! Host accesses (20 R47, R55): how the window splits them, what a read leaves alone, and what a write elsewhere than
to `CMD` leaves alone. -/

namespace Sys2Proof.Machine

/-- A host access lies outside the window, or is refused, or is a word access at an aligned offset (43 R152, R153). -/
theorem hostAccess_cases (rel : Int) (width : Nat) :
    (rel < 0 ∨ (windowSize : Int) ≤ rel)
      ∨ ∃ off : Nat, rel = off ∧ off < windowSize ∧ ((off % 4 ≠ 0 ∨ width ≠ 4) ∨ (off % 4 = 0 ∧ width = 4)) := by
  by_cases hout : rel < 0 ∨ (windowSize : Int) ≤ rel
  · exact .inl hout
  · exact .inr ⟨rel.toNat, by omega, by omega, by omega⟩

/-- Settles O20: outside the window, refused, or a register read, a read drives an output and nothing else. -/
theorem hostReadsChangeNoState : Obligations.HostReadsChangeNoState := by
  intro s rel width rest hin
  rcases hostAccess_cases rel width with hout | ⟨off, rfl, hw, hm | ⟨h4, rfl⟩⟩
  · exact ⟨.noResponse, step_of_select_rejected hin (decodeCsr_outside hout)⟩
  · exact ⟨.busErr, (step_of_select_op hin (decodeCsr_misaligned hw hm)).trans (exec_misaligned hw hm)⟩
  · obtain ⟨v, hv⟩ := exec_readOp (s := { s with inbox := rest }) hw h4
    exact ⟨.readOk v, (step_of_select_op hin (decodeCsr_word hw h4)).trans hv⟩

/-- A write of `PORT_CFG` leaves everything else of every slot as it was (20 R55). -/
theorem slot_eraseCfg_writePortCfg (s : State) (i j : Nat) (c : Word) :
    { (s.mapSlot i fun f => { f with portCfg := c }).slot j with portCfg := 0 } = { s.slot j with portCfg := 0 } := by
  rcases slot_mapSlot_cases s i j fun f => { f with portCfg := c } with ⟨-, -, e⟩ | e <;> rw [e]

/-- Settles O21, by the cases of what a step can do: the commands stand at the offset of `CMD` alone, and every other
case that is not a write has another stimulus at the head. -/
theorem hostWritesElsewhereThanCmdKeepRoutingAndFramers :
    Obligations.HostWritesElsewhereThanCmdKeepRoutingAndFramers := by
  intro s t rel width v rest hin hne h
  have hhead : s.inbox.head? = some (.write rel width v) := by rw [hin, List.head?_cons]
  cases step_cases h with
  | answered | wrCtrl | wrStatus => exact ⟨rfl, rfl, rfl, rfl, fun _ => rfl⟩
  | wrPortCfg _ i c =>
    exact ⟨rfl, rfl, rfl, nPorts_mapSlot _ _ _,
      fun j => slot_eraseCfg_writePortCfg { s with inbox := s.inbox.tail } i j _⟩
  | cmdIllegal _ head | start _ head | stop _ head =>
    cases hhead.symm.trans head
    exact absurd rfl hne
  | framer _ _ _ _ head | routed _ _ _ _ head | unrouted _ _ _ head | deliver _ _ _ head | reset head =>
    cases hhead.symm.trans head

end Sys2Proof.Machine
end

section
/-! The output queues (10 R31, 20 R52): what a step does to the queue of one slot. -/

namespace Sys2Proof.Machine

variable {s t : State} {i : Nat}

/-- Rewriting one slot only appends to every queue, if it only appends to that slot's. -/
theorem outq_prefix_mapSlot {g : Slot → Slot} (h : (s.slot i).outq <+: (g (s.slot i)).outq) (j : Nat) :
    (s.slot j).outq <+: ((s.mapSlot i g).slot j).outq := by
  rcases slot_mapSlot_cases s i j g with ⟨rfl, -, e⟩ | e <;> rw [e]
  exact h

/-- A datagram only appends to its slot's queue (42 R123). -/
theorem outq_prefix_receive {p : Params} {ctrl : Word} {ts : Nat} (data : List Byte) (f : Slot) :
    f.outq <+: (receive p ctrl i ts data f).outq := by
  obtain ⟨evs, h⟩ := feed_outq (p := p) (ctrl := ctrl) (i := i) (ts := ts) data
    { f with rxDgrams := inc f.rxDgrams, rxBytes := add f.rxBytes data.length }
  exact ⟨evs, h.symm⟩

/-- START keeps every queue (42 R128). -/
theorem outq_startCommand (h : i < s.nPorts) : (s.startCommand.slot i).outq = (s.slot i).outq := by
  rcases slot_startCommand s h with ⟨e, -⟩ | ⟨-, -, e⟩ <;> rw [e]
  rfl

/-- STOP keeps every queue (42 R130). -/
theorem outq_stopCommand (h : i < s.nPorts) : (s.stopCommand.slot i).outq = (s.slot i).outq := by
  rcases slot_stopCommand s h with ⟨-, -, e⟩ | ⟨-, e⟩ <;> rw [e]
  rfl

/-- Everything a step can do to the queue of slot `i`: append and hand over nothing of the slot, hand over its head, or
empty it by reset (20 R52). -/
theorem Stepped.outq_cases (h : Stepped s t) (hi : i < s.nPorts) :
    ((s.slot i).outq <+: (t.slot i).outq ∧ ∀ e, t.out ≠ .delivered i e)
      ∨ (∃ e, t.out = .delivered i e ∧ (s.slot i).outq = e :: (t.slot i).outq)
      ∨ (s.inbox.head? = some .reset ∧ (t.slot i).outq = [] ∧ t.out = .quiet) := by
  have rewritten {j : Nat} {g : Slot → Slot} (hg : (s.slot j).outq <+: (g (s.slot j)).outq) :
      (s.slot i).outq <+: (({ s with inbox := s.inbox.tail }.mapSlot j g).slot i).outq :=
    outq_prefix_mapSlot (s := { s with inbox := s.inbox.tail }) hg i
  cases h with
  | answered o quiet => exact .inl ⟨List.prefix_rfl, quiet i⟩
  | wrCtrl | wrStatus | cmdIllegal | unrouted => exact .inl ⟨List.prefix_rfl, nofun⟩
  | wrPortCfg => exact .inl ⟨rewritten List.prefix_rfl, nofun⟩
  | start => exact .inl ⟨outq_startCommand (s := { s with inbox := s.inbox.tail }) hi ▸ List.prefix_rfl, nofun⟩
  | stop => exact .inl ⟨outq_stopCommand (s := { s with inbox := s.inbox.tail }) hi ▸ List.prefix_rfl, nofun⟩
  | framer j ts f evs _ _ taken =>
    obtain ⟨-, -, -, -, hq⟩ := framerStep_frame taken
    exact .inl ⟨rewritten ⟨evs, by rw [Slot.outq_emit, hq]⟩, nofun⟩
  | routed => exact .inl ⟨rewritten (outq_prefix_receive _ _), nofun⟩
  | deliver j e rest _ _ queued =>
    rcases eq_or_ne i j with rfl | hij
    · refine .inr (.inl ⟨e, rfl, ?_⟩)
      rw [queued, slot_drive, slot_mapSlot_self { s with inbox := s.inbox.tail } _ hi]
    · refine .inl ⟨?_, fun e' he => hij (Out.delivered.inj he).1.symm⟩
      rw [slot_drive, slot_mapSlot_ne { s with inbox := s.inbox.tail } _ hij]
      exact List.prefix_rfl
  | reset head =>
    exact .inr (.inr ⟨head, by rw [slot_of_map (s := s) (g := fun _ => Slot.reset) rfl hi, Slot.outq_reset], rfl⟩)

/-- Settles O52, by what a step can do to one queue. -/
theorem outputQueuesAreFifo : Obligations.OutputQueuesAreFifo := by
  intro s t i h hi
  rcases (step_cases h).outq_cases hi with ⟨⟨evs, happend⟩, hnone⟩ | ⟨e, hout, hhead⟩ | ⟨hreset, hempty, hquiet⟩
  · exact ⟨.inl ⟨evs, happend.symm⟩, fun e he => absurd he (hnone e)⟩
  · refine ⟨.inr (.inl ⟨e, hout, hhead⟩), fun e' he' => ?_⟩
    rw [hout] at he'
    cases he'
    exact hhead
  · refine ⟨.inr (.inr ⟨hreset, hempty⟩), fun e he => ?_⟩
    rw [hquiet] at he
    cases he

end Sys2Proof.Machine
end

section
/-! The framer rows of the operation table as one family: what each is encoded as, and that exactly one of them is
selected (30 R78, 41 R90). -/

namespace Sys2Proof.Machine

/-- The framer row of an operation is encoded as one framer step of its slot (log 11). -/
@[simp] theorem encode_framerInstr (o : FramerOp) (i ts : Nat) : encode (o.instr i ts) = .framer i ts := by
  cases o <;> rfl

theorem wellFormed_framerInstr {n w i ts : Nat} (o : FramerOp) :
    (o.instr i ts).wellFormed n w = true ↔ i < n ∧ ts < 2 ^ w := by
  cases o <;> simp only [FramerOp.instr, Instr.wellFormed, Bool.and_eq_true, decide_eq_true_eq]

theorem select_framer {s : State} {i : Nat} (ts : Nat) (h : i < s.nPorts) :
    s.select (.framer i ts) = .op ((framerChoice s.par s.ctrl (s.slot i)).instr i (s.stamp ts)) := by
  simp only [State.select, h, if_true]

/-- Settles O4: a framer row is selected where it is the decoder's choice, which is one operation. -/
theorem exactlyOneFramerOperationApplies : Obligations.ExactlyOneFramerOperationApplies := by
  intro s i ts hi
  refine ⟨framerChoice s.par s.ctrl (s.slot i), selectedIn_framer_iff.2 ⟨hi, rfl⟩, fun o ho => ?_⟩
  obtain ⟨-, hchoice⟩ := selectedIn_framer_iff.1 ho
  exact hchoice.symm

end Sys2Proof.Machine
end

section
/-! Timestamps and datagrams: `TS_W` bits lose nothing of a well-formed timestamp (30 R68), and the two datagram rows
are selected by the slot that receives the datagram (42 R120, R121). -/

namespace Sys2Proof.Machine

variable {s : State}

theorem stamp_of_lt {ts : Nat} (h : ts < 2 ^ s.par.tsW) : s.stamp ts = ts := Nat.mod_eq_of_lt h

theorem stamp_lt (s : State) (ts : Nat) : s.stamp ts < 2 ^ s.par.tsW := Nat.mod_lt _ (by positivity)

theorem selectedIn_dgramUnrouted_iff {port : BitVec 16} {data : List Byte} {ts : Nat} :
    SelectedIn s (.dgramUnrouted port data ts) ↔ s.ingressSlot port = none :=
  ingressSlot_eq_none.symm

theorem selectedIn_dgramRouted_iff {port : BitVec 16} {data : List Byte} {ts : Nat} :
    SelectedIn s (.dgramRouted port data ts) ↔ ∃ i, s.ingressSlot port = some i := by
  rw [← Option.ne_none_iff_exists', ne_eq, ingressSlot_eq_none]
  simp only [SelectedIn, not_or, Bool.not_eq_false, not_forall, not_not, ne_eq, exists_prop]

end Sys2Proof.Machine
end

section
/-! The register map as a relation (30 R70, R77): where each register stands, and that the decoder finds exactly the
register that stands at an offset. -/

namespace Sys2Proof

/-- The register stands at offset `off` of a block with `n` slots, as the map of 30 R70 lists it. -/
def CsrReg.StandsAt (n off : Nat) : CsrReg → Prop
  | .params => off = 0x000
  | .proto => off = 0x004
  | .ctrl => off = 0x008
  | .cmd => off = 0x00C
  | .status => off = 0x010
  | .unrouted => off = 0x014
  | .portCfg i => i < n ∧ off = 0x040 + 4 * i
  | .rxDgrams i => i < n ∧ off = slotOffset i 0x00
  | .rxBytes i => i < n ∧ off = slotOffset i 0x04
  | .framesOk i => i < n ∧ off = slotOffset i 0x08
  | .resyncDrops i => i < n ∧ off = slotOffset i 0x0C
  | .lenOvf i => i < n ∧ off = slotOffset i 0x10
  | .trailerErr i => i < n ∧ off = slotOffset i 0x14
  | .csumErr i => i < n ∧ off = slotOffset i 0x18
  | .discarded i => i < n ∧ off = slotOffset i 0x1C
  | .pstate i => i < n ∧ off = slotOffset i 0x20
  | .bufLevel i => i < n ∧ off = slotOffset i 0x24
  | .reserved => isReserved n off = true

end Sys2Proof

namespace Sys2Proof.Machine

/-- A register of a slot's block stands at its field. -/
theorem slotReg_standsAt {n i field : Nat} (hi : i < n) (hne : slotReg i field ≠ .reserved) :
    (slotReg i field).StandsAt n (slotOffset i field) := by
  revert hne
  fun_cases slotReg i field
  case case11 => exact fun hne => absurd rfl hne
  all_goals subst field; exact fun _ => ⟨hi, rfl⟩

/-- The decoder finds at an aligned offset of the window a register that stands there. The cases are the branches of
`regAt`: the six global registers, then `PORT_CFG` (7), a slot's block (8) and the reserved offsets (9). -/
theorem regAt_standsAt {n off : Nat} (h4 : off % 4 = 0) (hw : off < windowSize) : (regAt n off).StandsAt n off := by
  by_cases hres : regAt n off = .reserved
  · rw [hres]
    exact (regAt_eq_reserved_iff h4 hw).1 hres
  · revert hres
    fun_cases regAt n off
    case case7 hcfg => exact fun _ => ⟨hcfg.2.2, by omega⟩
    case case8 hslot =>
      have hoff : slotOffset ((off - 0x100) / 0x40) ((off - 0x100) % 0x40) = off := by unfold slotOffset; omega
      intro hres
      generalize (off - 0x100) / 0x40 = i, (off - 0x100) % 0x40 = field at *
      subst hoff
      exact slotReg_standsAt hslot.2 hres
    case case9 => exact fun hres => absurd rfl hres
    all_goals subst off; exact fun _ => rfl

end Sys2Proof.Machine
end

section
/-! Encoding an operation and selecting from it (30 R68, R70, R73, R78): O2. -/

namespace Sys2Proof.Machine

variable {s : State}

theorem isMisaligned_iff {off width : Nat} :
    isMisaligned off width = true ↔ off < windowSize ∧ (off % 4 ≠ 0 ∨ width ≠ 4) := by
  simp only [isMisaligned, Bool.and_eq_true, Bool.or_eq_true, decide_eq_true_eq, bne_iff_ne]

theorem select_encode_framerInstr {i ts : Nat} (o : FramerOp)
    (hwf : (o.instr i ts).wellFormed s.nPorts s.par.tsW = true) (hsel : SelectedIn s (o.instr i ts)) :
    s.select (encode (o.instr i ts)) = .op (o.instr i ts) := by
  obtain ⟨-, hts⟩ := (wellFormed_framerInstr o).1 hwf
  obtain ⟨hi, hchoice⟩ := selectedIn_framer_iff.1 hsel
  rw [encode_framerInstr, select_framer ts hi, hchoice, stamp_of_lt hts]

theorem select_dgramRouted {port : BitVec 16} {data : List Byte} {ts : Nat} (hts : ts < 2 ^ s.par.tsW)
    (hsel : SelectedIn s (.dgramRouted port data ts)) :
    s.select (.dgram port data ts) = .op (.dgramRouted port data ts) := by
  obtain ⟨i, hi⟩ := selectedIn_dgramRouted_iff.1 hsel
  simp only [State.select, hi, stamp_of_lt hts]

theorem select_dgramUnrouted {port : BitVec 16} {data : List Byte} {ts : Nat} (hts : ts < 2 ^ s.par.tsW)
    (hsel : SelectedIn s (.dgramUnrouted port data ts)) :
    s.select (.dgram port data ts) = .op (.dgramUnrouted port data ts) := by
  simp only [State.select, selectedIn_dgramUnrouted_iff.1 hsel, stamp_of_lt hts]

theorem select_read_portCfg {i : Nat} (h8 : s.nPorts ≤ 8) (hi : i < s.nPorts) :
    s.select (encode (.rdPortCfg i)) = .op (.rdPortCfg i) := by
  have h := select_wordAccess s (off := 0x040 + 4 * i) none (by simp only [windowSize]; omega) (by omega)
  rwa [regAt_portCfg hi (by omega)] at h

theorem select_write_portCfg {i : Nat} (v : Word) (h8 : s.nPorts ≤ 8) (hi : i < s.nPorts) :
    s.select (encode (.wrPortCfg i v)) = .op (.wrPortCfg i v) := by
  have h := select_wordAccess s (off := 0x040 + 4 * i) (some v) (by simp only [windowSize]; omega) (by omega)
  rwa [regAt_portCfg hi (by omega)] at h

/-- A word access to a field of slot `i`'s block selects the operation on the register at that field (30 R70). -/
theorem select_read_slotReg {i field : Nat} (h8 : s.nPorts ≤ 8) (hi : i < s.nPorts) (hf : field < 0x40)
    (h4 : field % 4 = 0) :
    s.select (wordAccess (slotOffset i field) none) = .op (readOp (slotOffset i field) (slotReg i field)) := by
  have h := select_wordAccess s (off := slotOffset i field) none (by simp only [slotOffset, windowSize]; omega)
    (by simp only [slotOffset]; omega)
  rwa [regAt_slotReg hi hf] at h

theorem select_write_slotReg {i field : Nat} (v : Word) (h8 : s.nPorts ≤ 8) (hi : i < s.nPorts) (hf : field < 0x40)
    (h4 : field % 4 = 0) :
    s.select (wordAccess (slotOffset i field) (some v)) = .op (writeOp (slotOffset i field) (slotReg i field) v) := by
  have h := select_wordAccess s (off := slotOffset i field) (some v) (by simp only [slotOffset, windowSize]; omega)
    (by simp only [slotOffset]; omega)
  rwa [regAt_slotReg hi hf] at h

/-- A write of a command's data to `CMD` selects the command that the data issues (30 R73). -/
theorem select_write_cmdData (hi : BitVec 30) (c : BitVec 2) :
    s.select (wordAccess 0x00C (some (cmdData hi c))) = .op (cmdOp (cmdData hi c)) :=
  select_wordAccess s (some (cmdData hi c)) (by decide) (by decide)

theorem select_encode_csrReserved {off : Nat} {wr : Option Word} (h : isReserved s.nPorts off = true) :
    s.select (encode (.csrReserved off wr)) = .op (.csrReserved off wr) := by
  obtain ⟨h4, hw⟩ := isReserved_bounds h
  have hsel := select_wordAccess s wr hw h4
  rw [(regAt_eq_reserved_iff h4 hw).2 h] at hsel
  cases wr <;> exact hsel

theorem select_encode_csrMisaligned {off width : Nat} {wr : Option Word} (h : isMisaligned off width = true) :
    s.select (encode (.csrMisaligned off width wr)) = .op (.csrMisaligned off width wr) := by
  obtain ⟨hw, hm⟩ := isMisaligned_iff.1 h
  cases wr <;> exact decodeCsr_misaligned hw hm

theorem select_deliver {i : Nat} (h : SelectedIn s (.deliver i)) : s.select (.deliver i) = .op (.deliver i) := by
  obtain ⟨hi, hq⟩ := h
  simp only [State.select, if_neg (Nat.not_le.2 hi), if_neg hq]

/-- Settles O2, by the operation: a framer row is the decoder's choice for its slot, a datagram row is told by the slot
that receives it, and a register stands where the map puts it. -/
theorem selectingAnEncodedOperationGivesItBack : Obligations.SelectingAnEncodedOperationGivesItBack := by
  intro s i h8 hwf hsel
  cases i with
  | fWaitSync => exact select_encode_framerInstr .waitSync hwf hsel
  | fSync => exact select_encode_framerInstr .sync hwf hsel
  | fDrop => exact select_encode_framerInstr .drop hwf hsel
  | fWaitHdr => exact select_encode_framerInstr .waitHdr hwf hsel
  | fLenOvf => exact select_encode_framerInstr .lenOvf hwf hsel
  | fWaitBody => exact select_encode_framerInstr .waitBody hwf hsel
  | fReady => exact select_encode_framerInstr .ready hwf hsel
  | fEmit => exact select_encode_framerInstr .emit hwf hsel
  | fDiscard => exact select_encode_framerInstr .discard hwf hsel
  | fResume => exact select_encode_framerInstr .resume hwf hsel
  | dgramRouted => exact select_dgramRouted (of_decide_eq_true hwf) hsel
  | dgramUnrouted => exact select_dgramUnrouted (of_decide_eq_true hwf) hsel
  | rdParams | rdProto | rdCtrl | rdStatus | rdUnrouted | rdCmd =>
    exact select_wordAccess s none (by decide) (by decide)
  | wrParams v | wrProto v | wrCtrl v | wrStatus v | wrUnrouted v =>
    exact select_wordAccess s (some v) (by decide) (by decide)
  | cmdNone | cmdStart | cmdStop | cmdIllegal =>
    simp only [encode, select_write_cmdData, cmdOp_cmdData, reduceIte, BitVec.reduceEq]
  | rdPortCfg => exact select_read_portCfg h8 (of_decide_eq_true hwf)
  | wrPortCfg => exact select_write_portCfg _ h8 (of_decide_eq_true hwf)
  | rdRxDgrams | rdRxBytes | rdFramesOk | rdResyncDrops | rdLenOvf | rdTrailerErr | rdCsumErr | rdDiscarded | rdPstate
  | rdBufLevel => exact select_read_slotReg h8 (of_decide_eq_true hwf) (by decide) (by decide)
  | wrRxDgrams | wrRxBytes | wrFramesOk | wrResyncDrops | wrLenOvf | wrTrailerErr | wrCsumErr | wrDiscarded | wrPstate
  | wrBufLevel => exact select_write_slotReg _ h8 (of_decide_eq_true hwf) (by decide) (by decide)
  | csrReserved => exact select_encode_csrReserved hsel
  | csrMisaligned => exact select_encode_csrMisaligned hsel
  | deliver => exact select_deliver hsel
  | reset => rfl

end Sys2Proof.Machine
end

section
/-! What a stimulus selects (30 R68, R70, R73, R78): O3. -/

namespace Sys2Proof.Machine

variable {s : State}

/-- `x` is what operation `i` is encoded as, and `i` is an operation of the block that its state selects. -/
def Encodes (s : State) (i : Instr) (x : Stimulus) : Prop :=
  i.wellFormed s.nPorts s.par.tsW = true ∧ SelectedIn s i ∧ encode i = x

theorem encodes_readOp {off : Nat} {r : CsrReg} (h : r.StandsAt s.nPorts off) :
    Encodes s (readOp off r) (.read off 4) := by
  cases r with
  | params | proto | ctrl | cmd | status | unrouted =>
    cases h
    exact ⟨rfl, trivial, rfl⟩
  | reserved => exact ⟨h, h, rfl⟩
  | _ =>
    obtain ⟨hi, rfl⟩ := h
    exact ⟨decide_eq_true hi, trivial, rfl⟩

/-- The data of a `CMD` write is its ignored bits and its command (30 R73). -/
theorem cmdData_extractLsb' {v : Word} {c : BitVec 2} (h : v.toNat % 4 = c.toNat) :
    cmdData (v.extractLsb' 2 30) c = v := by
  apply BitVec.eq_of_toNat_eq
  rw [toNat_cmdData, BitVec.extractLsb'_toNat, Nat.shiftRight_eq_div_pow]
  omega

theorem encodes_cmdOp (v : Word) : Encodes s (cmdOp v) (.write 0x00C 4 v) := by
  have encoded {c : BitVec 2} (h : v.toNat % 4 = c.toNat) :
      wordAccess 0x00C (some (cmdData (v.extractLsb' 2 30) c)) = .write 0x00C 4 v := by
    rw [cmdData_extractLsb' h]
    rfl
  rcases cmdOp_cases v with ⟨h, e⟩ | ⟨h, e⟩ | ⟨h, e⟩ | ⟨h, e⟩ <;> rw [e] <;> exact ⟨rfl, trivial, encoded h⟩

theorem encodes_writeOp {off : Nat} {r : CsrReg} (v : Word) (h : r.StandsAt s.nPorts off) :
    Encodes s (writeOp off r v) (.write off 4 v) := by
  cases r with
  | params | proto | ctrl | status | unrouted =>
    cases h
    exact ⟨rfl, trivial, rfl⟩
  | cmd =>
    cases h
    exact encodes_cmdOp v
  | reserved => exact ⟨h, h, rfl⟩
  | _ =>
    obtain ⟨hi, rfl⟩ := h
    exact ⟨decide_eq_true hi, trivial, rfl⟩

theorem encodes_csrMisaligned {off width : Nat} (hw : off < windowSize) (h : off % 4 ≠ 0 ∨ width ≠ 4) :
    Encodes s (.csrMisaligned off width none) (.read off width)
      ∧ ∀ v, Encodes s (.csrMisaligned off width (some v)) (.write off width v) := by
  have hm := isMisaligned_iff.2 ⟨hw, h⟩
  exact ⟨⟨hm, hm, rfl⟩, fun _ => ⟨hm, hm, rfl⟩⟩

theorem encodes_framerChoice {i : Nat} (ts : Nat) (hi : i < s.nPorts) :
    Encodes s ((framerChoice s.par s.ctrl (s.slot i)).instr i (s.stamp ts)) (.framer i (s.stamp ts)) :=
  ⟨(wellFormed_framerInstr _).2 ⟨hi, stamp_lt s ts⟩, selectedIn_framer_iff.2 ⟨hi, rfl⟩, encode_framerInstr _ _ _⟩

/-- Settles O3, by the stimulus; a host access is refused, or is told by the register at its offset. -/
theorem aSelectedOperationMeetsItsCondition : Obligations.ASelectedOperationMeetsItsCondition := by
  intro s x i _ hsel
  have answers {j : Instr} (h : s.select x = .op j) (henc : Encodes s j (cutStamp s x)) :
      Encodes s i (cutStamp s x) := by
    cases hsel.symm.trans h
    exact henc
  cases x with
  | read rel width =>
    rcases hostAccess_cases rel width with hout | ⟨off, rfl, hw, hm | ⟨h4, rfl⟩⟩
    · cases hsel.symm.trans (decodeCsr_outside hout)
    · exact answers (decodeCsr_misaligned hw hm) (encodes_csrMisaligned hw hm).1
    · exact answers (decodeCsr_word hw h4) (encodes_readOp (regAt_standsAt h4 hw))
  | write rel width v =>
    rcases hostAccess_cases rel width with hout | ⟨off, rfl, hw, hm | ⟨h4, rfl⟩⟩
    · cases hsel.symm.trans (decodeCsr_outside hout)
    · exact answers (decodeCsr_misaligned hw hm) ((encodes_csrMisaligned hw hm).2 v)
    · exact answers (decodeCsr_word hw h4) (encodes_writeOp v (regAt_standsAt h4 hw))
  | dgram port data ts =>
    cases hr : s.ingressSlot port with
    | some k =>
      exact answers (j := .dgramRouted port data (s.stamp ts)) (by simp only [State.select, hr])
        ⟨decide_eq_true (stamp_lt s ts), selectedIn_dgramRouted_iff.2 ⟨k, hr⟩, rfl⟩
    | none =>
      exact answers (j := .dgramUnrouted port data (s.stamp ts)) (by simp only [State.select, hr])
        ⟨decide_eq_true (stamp_lt s ts), selectedIn_dgramUnrouted_iff.2 hr, rfl⟩
  | framer k ts =>
    by_cases hk : k < s.nPorts
    · exact answers (select_framer ts hk) (encodes_framerChoice ts hk)
    · simp only [State.select, if_neg hk, reduceCtorEq] at hsel
  | deliver k =>
    by_cases hk : s.nPorts ≤ k
    · simp only [State.select, if_pos hk, reduceCtorEq] at hsel
    · by_cases hq : (s.slot k).outq = []
      · simp only [State.select, if_neg hk, if_pos hq, reduceCtorEq] at hsel
      · have hk := Nat.not_le.1 hk
        exact answers (select_deliver ⟨hk, hq⟩) ⟨decide_eq_true hk, ⟨hk, hq⟩, rfl⟩
  | reset => exact answers (j := .reset) rfl ⟨rfl, trivial, rfl⟩

end Sys2Proof.Machine
end

section
/-! Where an operation completes and where it is refused (30 R78, log 10): O5. -/

namespace Sys2Proof.Machine

variable {s : State}

/-- `i` completes where the table selects it, and is refused by name elsewhere. -/
def CompletesWhereSelected (s : State) (i : Instr) : Prop :=
  (SelectedIn s i → ∃ t, exec i s = .next t) ∧ (¬SelectedIn s i → ∃ m, exec i s = .refused (.notSelected m))

/-- The meaning of a framer row is `framerRow`, at the row's own operation. -/
theorem exec_framerInstr (s : State) (o : FramerOp) (i ts : Nat) :
    ∃ m effect, exec (o.instr i ts) s = framerRow o m effect i s := by
  cases o with
  | waitSync => exact ⟨"F_WAIT_SYNC", fWaitSync, rfl⟩
  | sync => exact ⟨"F_SYNC", fSync, rfl⟩
  | drop => exact ⟨"F_DROP", fDrop, rfl⟩
  | waitHdr => exact ⟨"F_WAIT_HDR", fWaitHdr, rfl⟩
  | lenOvf => exact ⟨"F_LEN_OVF", fLenOvf i ts, rfl⟩
  | waitBody => exact ⟨"F_WAIT_BODY", fWaitBody, rfl⟩
  | ready => exact ⟨"F_READY", fReady, rfl⟩
  | emit => exact ⟨"F_EMIT", fEmit s.par i ts, rfl⟩
  | discard => exact ⟨"F_DISCARD", fDiscard s.par i ts, rfl⟩
  | resume => exact ⟨"F_RESUME", fResume, rfl⟩

theorem framerInstr_completes (o : FramerOp) (i ts : Nat) : CompletesWhereSelected s (o.instr i ts) := by
  obtain ⟨m, effect, hrow⟩ := exec_framerInstr s o i ts
  rw [CompletesWhereSelected, hrow, selectedIn_framer_iff]
  refine ⟨fun ⟨hi, ho⟩ => ?_, fun h => ⟨m, framerRow_refused h⟩⟩
  rw [framerRow_selected hi ho]
  cases effect (s.slot i) <;> exact ⟨_, rfl⟩

/-- An operation that is selected in every state and completes there: a register access, a command, reset. -/
theorem completes_of_exec_next {i : Instr} {t : State} (hsel : SelectedIn s i) (h : exec i s = .next t) :
    CompletesWhereSelected s i :=
  ⟨fun _ => ⟨t, h⟩, fun hn => absurd hsel hn⟩

theorem dgramRouted_completes (port : BitVec 16) (data : List Byte) (ts : Nat) :
    CompletesWhereSelected s (.dgramRouted port data ts) := by
  simp only [CompletesWhereSelected, selectedIn_dgramRouted_iff, exec, execDgramRouted]
  cases s.ingressSlot port with
  | some i => exact ⟨fun _ => ⟨_, rfl⟩, fun hn => absurd ⟨i, rfl⟩ hn⟩
  | none => exact ⟨nofun, fun _ => ⟨_, rfl⟩⟩

theorem dgramUnrouted_completes (port : BitVec 16) (data : List Byte) (ts : Nat) :
    CompletesWhereSelected s (.dgramUnrouted port data ts) := by
  simp only [CompletesWhereSelected, selectedIn_dgramUnrouted_iff, exec, execDgramUnrouted]
  cases s.ingressSlot port with
  | some i => exact ⟨nofun, fun _ => ⟨_, rfl⟩⟩
  | none => exact ⟨fun _ => ⟨_, rfl⟩, fun hn => absurd rfl hn⟩

theorem csrReserved_completes (off : Nat) (wr : Option Word) : CompletesWhereSelected s (.csrReserved off wr) := by
  simp only [CompletesWhereSelected, exec, execCsrReserved]
  refine ⟨fun h => ?_, fun hn => ⟨_, if_neg fun ⟨h4, hw, hreg⟩ => hn ((regAt_eq_reserved_iff h4 hw).1 hreg)⟩⟩
  obtain ⟨h4, hw⟩ := isReserved_bounds h
  rw [if_pos ⟨h4, hw, (regAt_eq_reserved_iff h4 hw).2 h⟩]
  cases wr <;> exact ⟨_, rfl⟩

theorem csrMisaligned_completes (off width : Nat) (wr : Option Word) :
    CompletesWhereSelected s (.csrMisaligned off width wr) := by
  refine ⟨fun h => ?_, fun h => ⟨_, if_neg fun hm => h (isMisaligned_iff.2 hm)⟩⟩
  obtain ⟨hw, hm⟩ := isMisaligned_iff.1 h
  exact ⟨_, exec_misaligned hw hm⟩

theorem deliver_completes (i : Nat) : CompletesWhereSelected s (.deliver i) := by
  simp only [CompletesWhereSelected, exec, execDeliver]
  cases hq : (s.slot i).outq with
  | nil => exact ⟨fun ⟨_, hne⟩ => absurd hq hne, fun _ => ⟨_, rfl⟩⟩
  | cons e rest =>
    have hi : i < s.nPorts := by
      by_contra hge
      rw [slot_of_ge s (Nat.not_lt.1 hge)] at hq
      cases hq
    refine ⟨fun _ => ⟨_, rfl⟩, fun hn => absurd ⟨hi, ?_⟩ hn⟩
    rw [hq]
    exact List.cons_ne_nil e rest

/-- Settles O5, by the operation. -/
theorem operationsCompleteExactlyWhereSelected : Obligations.OperationsCompleteExactlyWhereSelected := by
  intro s i
  cases i with
  | fWaitSync => exact framerInstr_completes .waitSync _ _
  | fSync => exact framerInstr_completes .sync _ _
  | fDrop => exact framerInstr_completes .drop _ _
  | fWaitHdr => exact framerInstr_completes .waitHdr _ _
  | fLenOvf => exact framerInstr_completes .lenOvf _ _
  | fWaitBody => exact framerInstr_completes .waitBody _ _
  | fReady => exact framerInstr_completes .ready _ _
  | fEmit => exact framerInstr_completes .emit _ _
  | fDiscard => exact framerInstr_completes .discard _ _
  | fResume => exact framerInstr_completes .resume _ _
  | dgramRouted => exact dgramRouted_completes _ _ _
  | dgramUnrouted => exact dgramUnrouted_completes _ _ _
  | csrReserved => exact csrReserved_completes _ _
  | csrMisaligned => exact csrMisaligned_completes _ _ _
  | deliver => exact deliver_completes _
  | _ => exact completes_of_exec_next trivial rfl

end Sys2Proof.Machine
end

section
/-! Words of the operation table (30 R70, R73), and the registers `CTRL` (43 R144) and `CMD` (43 R145): O6, O9 and
O10. -/

namespace Sys2Proof.Machine

/-- Settles O6, by evaluating the decoder on each word. -/
theorem tableWordsDecodeToTheirRows : Obligations.TableWordsDecodeToTheirRows :=
  ⟨rfl, rfl, rfl, rfl, rfl, rfl, rfl, rfl, rfl, rfl⟩

/-- The word `CTRL` reads as is its two gates, at bits 1 and 0 (30 R72). -/
theorem toNat_ctrlWord (s : State) : s.ctrlWord.toNat = 2 * (gateTrailer s.ctrl).toNat + (gateCsum s.ctrl).toNat := by
  have hmask : s.ctrlWord.toNat = s.ctrl.toNat % 4 := Nat.and_two_pow_sub_one_eq_mod _ 2
  have hbit (k : Nat) : (s.ctrl.getLsbD k).toNat = s.ctrl.toNat / 2 ^ k % 2 := Nat.toNat_testBit _ _
  rw [hmask, gateTrailer, gateCsum, hbit, hbit]
  omega

/-- Settles O9, by what `CTRL` reads as; the decoder finds `CTRL` at its offset. -/
theorem ctrlRegisterHoldsTheGates : Obligations.CtrlRegisterHoldsTheGates := fun s v =>
  ⟨⟨s.ctrlWord, toNat_ctrlWord s, fun base => select_readWord s base (by decide) (by decide), rfl⟩,
    fun base => select_writeWord s base v (by decide) (by decide), rfl⟩

/-- A word write at the offset of `CMD` selects the command of its data (30 R73). -/
theorem select_writeCmd (s : State) (base : Nat) (v : Word) :
    s.select (memWrite base (base + 0x00C) 4 v) = .op (cmdOp v) :=
  select_writeWord s base v (by decide) (by decide)

/-- Settles O10, by the command that the two low bits of the data tell. -/
theorem cmdRegisterDecodesCommands : Obligations.CmdRegisterDecodesCommands := by
  intro s v
  refine ⟨⟨fun base => select_readWord s base (by decide) (by decide), rfl⟩, ?_⟩
  simp only [AnswersWrite, select_writeCmd]
  rcases cmdOp_cases v with ⟨h, e⟩ | ⟨h, e⟩ | ⟨h, e⟩ | ⟨h, e⟩ <;> rw [h, e]
  · exact ⟨fun _ => ⟨fun _ => rfl, rfl⟩, nofun, nofun, nofun⟩
  · exact ⟨nofun, fun _ _ => rfl, nofun, nofun⟩
  · exact ⟨nofun, nofun, fun _ _ => rfl, nofun⟩
  · exact ⟨nofun, nofun, nofun, fun _ => ⟨fun _ => rfl, rfl⟩⟩

end Sys2Proof.Machine
end

section
/-! The frame codec of 40_frame_codec.md: O22, O23, O24 and O25. -/

namespace Sys2Proof.Machine

/-! ### The frame `EncodeFrame` builds -/

/-- `EncodeFrame` (40 R82) byte by byte, with the two bytes of its length field; `Csum` covers all bytes before it. -/
theorem eq_of_encodeFrame {p : Params} {fc : Byte} {payload frame : List Byte}
    (h : encodeFrame p fc payload = some frame) :
    ∃ hi lo : Byte, payload.length = hi.toNat * 256 + lo.toNat
      ∧ xorAll (p.sync0 :: p.sync1 :: fc :: hi :: lo :: payload) = csum p fc (BitVec.ofNat 16 payload.length) payload
      ∧ frame = p.sync0 :: p.sync1 :: fc :: hi :: lo :: (payload
          ++ [csum p fc (BitVec.ofNat 16 payload.length) payload, p.trailer0, p.trailer1]) := by
  obtain ⟨hp, hf⟩ := Option.ite_none_right_eq_some.1 h
  refine ⟨_, _, (lengthBytes hp).symm, ?_, ?_⟩
  · simp [csum, BitVec.xor_assoc]
  · rw [← Option.some.inj hf]
    simp

/-- Settles O22, by the bytes of the frame: its first `5 + |p|` bytes are those the checksum covers. -/
theorem checksumCoversHeaderAndPayload : Obligations.ChecksumCoversHeaderAndPayload := by
  intro p fc payload frame h
  obtain ⟨hi, lo, -, hx, rfl⟩ := eq_of_encodeFrame h
  rw [show 5 + payload.length = payload.length + 1 + 1 + 1 + 1 + 1 by omega]
  refine ⟨?_, ?_, ?_⟩
  · simp +arith
  · simpa using hx
  · simp

/-! ### What `DecodeFrame` answers -/

/-- Where F_READY has put the framer in HaveFrame, every check of `DecodeFrame` passes (40 R84). -/
theorem decodeFrame_eq_frame {p : Params} {buf : List Byte} (hs : opensWithSync p buf)
    (hL : headerLen buf ≤ p.maxLen.toNat) (hlen : 8 + headerLen buf ≤ buf.length) :
    decodeFrame p buf = .frame (frameFields p buf) := by
  have hsync : syncAtHead p buf = true := (syncAtHead_iff (opensWithSync_length hs)).2 hs
  simp only [decodeFrame, hsync, frameLen_eq_headerLen]
  rw [if_neg (by omega), if_neg (by decide), if_neg (by omega), if_neg (by omega)]

/-- A declared length above `MAX_LEN` is refused before the body is looked at (40 R83). -/
theorem decodeFrame_eq_lengthOverflow {p : Params} {buf : List Byte} (hs : opensWithSync p buf)
    (h8 : 8 ≤ buf.length) (hL : p.maxLen.toNat < headerLen buf) : decodeFrame p buf = .lengthOverflow := by
  have hsync : syncAtHead p buf = true := (syncAtHead_iff (opensWithSync_length hs)).2 hs
  simp only [decodeFrame, hsync, frameLen_eq_headerLen]
  rw [if_neg (by omega), if_neg (by decide), if_pos hL]

/-- Settles O25, by the checks of `DecodeFrame`, which all pass. -/
theorem decodeFrameNeverFailsInHaveFrame : Obligations.DecodeFrameNeverFailsInHaveFrame :=
  fun _ _ => decodeFrame_eq_frame

/-- Settles O23: the encoded frame opens with the sync pair and declares `|p|`, so `MAX_LEN` alone tells the two results
apart; the fields are then read off its bytes. -/
theorem decodingAnEncodedFrameGivesItBack : Obligations.DecodingAnEncodedFrameGivesItBack := by
  intro p fc payload rest hp
  obtain ⟨frame, hf⟩ : ∃ frame, encodeFrame p fc payload = some frame := ⟨_, if_pos hp⟩
  obtain ⟨hi, lo, hlen, hx, rfl⟩ := eq_of_encodeFrame hf
  refine ⟨_, hf, ?_⟩
  simp only [List.cons_append, List.append_assoc, List.nil_append]
  generalize csum p fc (BitVec.ofNat 16 payload.length) payload = c at hx ⊢
  have hfields := frameFields_cons p p.sync0 p.sync1 fc hi lo c p.trailer0 p.trailer1 payload rest hlen
  generalize hbuf : p.sync0 :: p.sync1 :: fc :: hi :: lo :: (payload ++ c :: p.trailer0 :: p.trailer1 :: rest) = buf
    at hfields ⊢
  have hs : opensWithSync p buf := by rw [← hbuf]; rfl
  have hL : headerLen buf = payload.length := by rw [← hbuf, headerLen_cons, hlen]
  have h8 : 8 + payload.length ≤ buf.length := by rw [← hbuf]; simp +arith
  split
  next hmax =>
    rw [decodeFrame_eq_frame hs (by omega) (by omega), hfields, hx, ← hlen]
    simp
  next hmax => exact decodeFrame_eq_lengthOverflow hs (by omega) (by omega)

/-! ### What the checksum detects -/

/-- Replacing one byte changes the exclusive OR by the difference of the two bytes. -/
theorem xorAll_set {s : List Byte} {k : Nat} (h : k < s.length) (b : Byte) :
    xorAll (s.set k b) = xorAll s ^^^ (s[k] ^^^ b) := by
  induction s generalizing k with
  | nil => simp at h
  | cons a s ih =>
    cases k with
    | zero =>
      simp only [List.set_cons_zero, xorAll_cons, List.getElem_cons_zero]
      calc b ^^^ xorAll s = xorAll s ^^^ ((a ^^^ a) ^^^ b) := by simp [BitVec.xor_comm]
        _ = a ^^^ xorAll s ^^^ (a ^^^ b) := by ac_rfl
    | succ k =>
      have hk : k < s.length := Nat.lt_of_succ_lt_succ h
      simp [ih hk, BitVec.xor_assoc]

/-- Settles O24: a changed byte leaves its nonzero difference in an exclusive OR that was zero. -/
theorem checksumDetectsAnySingleByteChange : Obligations.ChecksumDetectsAnySingleByteChange := by
  intro image c b k
  refine ⟨by simp, fun hzero hk hne hset => hne ?_⟩
  have hlt : k < (image ++ [c]).length := by simpa using Nat.lt_succ_of_le hk
  rw [xorAll_set hlt, hzero] at hset
  rw [List.getElem?_eq_getElem hlt, BitVec.xor_eq_zero_iff.1 (BitVec.zero_xor.symm.trans hset)]

end Sys2Proof.Machine
end

section
/-! The ten framer operations as one family: what each does to its slot, which of them `FramerStep` applies, and what
executing a row does to the state (41 R90, R102). -/

namespace Sys2Proof.Machine

variable {p : Params} {ctrl : Word} {i ts : Nat}

/-- What a framer operation does to its slot (41 R91 to R101). -/
def framerEffect (p : Params) (i ts : Nat) (f : Slot) : FramerOp → FramerResult
  | .waitSync => fWaitSync f
  | .sync => fSync f
  | .drop => fDrop f
  | .waitHdr => fWaitHdr f
  | .lenOvf => fLenOvf i ts f
  | .waitBody => fWaitBody f
  | .ready => fReady f
  | .emit => fEmit p i ts f
  | .discard => fDiscard p i ts f
  | .resume => fResume f

/-- `FramerStep` is the effect of the operation that applies (41 R90). -/
theorem framerStep_eq (f : Slot) :
    framerStep p ctrl i ts f = framerEffect p i ts f (framerChoice p ctrl f) := by
  unfold framerStep
  cases framerChoice p ctrl f <;> rfl

/-! ### The step by its condition -/

theorem framerStep_sync {f : Slot} (hs : f.st = .seeking) (ho : opensWithSync p f.buf) :
    framerStep p ctrl i ts f = fSync f := by
  have h2 := opensWithSync_length ho
  have hchoice : framerChoice p ctrl f = .sync := by
    simp only [framerChoice, framerOp, hs, (syncAtHead_iff h2).2 ho, if_true, if_neg (Nat.not_lt.2 h2)]
  rw [framerStep, hchoice]

theorem framerStep_drop {f : Slot} (hs : f.st = .seeking) (h2 : 2 ≤ f.buf.length) (ho : ¬opensWithSync p f.buf) :
    framerStep p ctrl i ts f = fDrop f := by
  rw [← syncAtHead_iff h2] at ho
  have hchoice : framerChoice p ctrl f = .drop := by
    simp only [framerChoice, framerOp, hs, if_neg (Nat.not_lt.2 h2), if_neg ho]
  rw [framerStep, hchoice]

theorem framerStep_ready {f : Slot} (hs : f.st = .haveHeader) (hL : headerLen f.buf ≤ p.maxLen.toNat)
    (hb : 8 + headerLen f.buf ≤ f.buf.length) : framerStep p ctrl i ts f = fReady f := by
  have hchoice : framerChoice p ctrl f = .ready := by
    simp only [framerChoice, framerOp, hs, ← frameLen.eq_1, frameLen_eq_headerLen]
    rw [if_neg (by omega), if_neg (by omega), if_neg (by omega)]
  rw [framerStep, hchoice]

theorem framerStep_emit {f : Slot} (hs : f.st = .haveFrame) (hr : rejects p ctrl f.buf = false) :
    framerStep p ctrl i ts f = fEmit p i ts f := by
  have hchoice : framerChoice p ctrl f = .emit := by
    simp only [framerChoice, framerOp, hs, hr, if_false, Bool.false_eq_true]
  rw [framerStep, hchoice]

theorem framerStep_resume {f : Slot} (hs : f.st = .yielded) : framerStep p ctrl i ts f = fResume f := by
  have hchoice : framerChoice p ctrl f = .resume := by simp only [framerChoice, framerOp, hs]
  rw [framerStep, hchoice]

/-! ### Executing a row -/

theorem exec_framerOp {s : State} {o : FramerOp} (sel : SelectedIn s (o.instr i ts)) :
    exec (o.instr i ts) s =
      match framerEffect s.par i ts (s.slot i) o with
      | .wait => .next { s with out := .quiet }
      | .next f evs => .next (s.afterFramer i f evs) := by
  obtain ⟨hi, rfl⟩ := selectedIn_framer_iff.1 sel
  rw [exec_framerChoice ts hi, framerStep_eq]
  cases framerEffect s.par i ts (s.slot i) (framerChoice s.par s.ctrl (s.slot i)) with
  | wait => rfl
  | next f evs =>
    simp only [mapSlot_eq_set s _ hi]
    rfl

theorem exec_framerOp_wait {s : State} {o : FramerOp} (sel : SelectedIn s (o.instr i ts))
    (h : framerEffect s.par i ts (s.slot i) o = .wait) : exec (o.instr i ts) s = .next { s with out := .quiet } := by
  rw [exec_framerOp sel, h]

theorem exec_framerOp_next {s : State} {o : FramerOp} {f : Slot} {evs : List Event}
    (sel : SelectedIn s (o.instr i ts)) (h : framerEffect s.par i ts (s.slot i) o = .next f evs) :
    exec (o.instr i ts) s = .next (s.afterFramer i f evs) := by
  rw [exec_framerOp sel, h]

/-- Settles O33: the row that is selected is the decoder's choice, whose effect `FramerStep` applies. -/
theorem framerStepIsTheSelectedRow : Obligations.FramerStepIsTheSelectedRow := by
  intro s o i ts sel
  obtain ⟨-, hchoice⟩ := selectedIn_framer_iff.1 sel
  rw [framerStep_eq, hchoice]
  exact exec_framerOp sel

end Sys2Proof.Machine
end

section
/-! The framer rows one by one, on a buffer written out byte by byte (41 R91 to R101): O26 to O32. -/

namespace Sys2Proof.Machine

variable {p : Params} {ctrl : Word} {s : State} {i ts : Nat}

/-! ### The rows outside HaveFrame -/

theorem warning_cons (b0 b1 fc hi lo : Byte) (tail : List Byte) (code : WarnCode) :
    warning i ts (b0 :: b1 :: fc :: hi :: lo :: tail) code =
      .warn {
        slot := slotBits i
        code := code
        funcCode := fc
        length := BitVec.ofNat 16 (hi.toNat * 256 + lo.toNat)
        ts := ts } := by
  rw [warning, lengthField_cons]
  rfl

theorem five_le_length (b0 b1 b2 b3 b4 : Byte) (tail : List Byte) :
    5 ≤ (b0 :: b1 :: b2 :: b3 :: b4 :: tail).length :=
  Nat.le_add_left 5 tail.length

/-- Settles O26: the three operations answer `Wait` where they are selected. -/
theorem waitingOperationsChangeNothing : Obligations.WaitingOperationsChangeNothing := by
  intro s i ts hi
  refine ⟨fun hs hl => exec_framerOp_wait (o := .waitSync) ⟨hi, hs, hl⟩ rfl,
    fun hs hl => exec_framerOp_wait (o := .waitHdr) ⟨hi, hs, hl⟩ rfl, fun b0 b1 fc hh hl rest hs hb hL hlen => ?_⟩
  refine exec_framerOp_wait (o := .waitBody) ⟨hi, hs, ?_⟩ rfl
  rw [hb] at hlen ⊢
  exact ⟨five_le_length .., hL, hlen⟩

/-- Settles O27: F_SYNC is selected and moves the state only. -/
theorem syncPairOpensAHeader : Obligations.SyncPairOpensAHeader := by
  intro s i ts rest hi hs hb
  exact exec_framerOp_next (o := .sync) ⟨hi, hs, by rw [hb]; rfl⟩ rfl

/-- Settles O28: a head pair that is not the sync pair selects F_DROP. -/
theorem resyncDropsExactlyOneByte : Obligations.ResyncDropsExactlyOneByte := by
  intro s i ts b0 b1 rest hi hs hb hne
  refine exec_framerOp_next (o := .drop) ⟨hi, hs, ?_, fun ho => hne ?_⟩ ?_
  · rw [hb]
    exact Nat.le_add_left 2 rest.length
  · rw [hb] at ho
    cases ho
    rfl
  · rw [framerEffect, fDrop, Slot.drop, hb]
    rfl

/-- Settles O29: F_LEN_OVF is selected, and its warning reads the header's bytes. -/
theorem lengthOverflowWarnsAndDropsOneByte : Obligations.LengthOverflowWarnsAndDropsOneByte := by
  intro s i ts b0 b1 fc hh hl rest hi hs hb hL
  refine exec_framerOp_next (o := .lenOvf) ⟨hi, hs, ?_⟩ ?_
  · rw [hb]
    exact ⟨five_le_length .., hL⟩
  · rw [framerEffect, fLenOvf, Slot.drop, hb, warning_cons]
    rfl

/-- Settles O30: F_READY and F_RESUME are selected and move the state only. -/
theorem readyAndResumeMoveTheStateOnly : Obligations.ReadyAndResumeMoveTheStateOnly := by
  intro s i ts hi
  refine ⟨fun b0 b1 fc hh hl rest hs hb hL hlen => ?_,
    fun hs => exec_framerOp_next (o := .resume) ⟨hi, hs⟩ rfl⟩
  refine exec_framerOp_next (o := .ready) ⟨hi, hs, ?_⟩ rfl
  rw [hb] at hlen ⊢
  exact ⟨five_le_length .., hL, hlen⟩

/-! ### The evaluation in HaveFrame -/

/-- `reject` (41 R98): an enabled gate finds its flag false. -/
theorem rejects_iff {buf : List Byte} :
    rejects p ctrl buf = true ↔
      (ctrl.getLsbD 0 = true ∧ csumOk buf = false) ∨ (ctrl.getLsbD 1 = true ∧ trailerOk p buf = false) := by
  simp only [rejects, gateCsum, gateTrailer, Bool.or_eq_true, Bool.and_eq_true, Bool.not_eq_true']

theorem not_rejects_iff {buf : List Byte} :
    rejects p ctrl buf = false ↔
      (ctrl.getLsbD 0 = true → csumOk buf = true) ∧ (ctrl.getLsbD 1 = true → trailerOk p buf = true) := by
  refine ⟨flags_of_not_rejects, fun ⟨hc, ht⟩ => Bool.eq_false_iff.2 fun hr => ?_⟩
  rcases rejects_iff.1 hr with ⟨hg, hf⟩ | ⟨hg, hf⟩
  · exact Bool.false_ne_true (hf.symm.trans (hc hg))
  · exact Bool.false_ne_true (hf.symm.trans (ht hg))

/-- The bytes behind a complete frame. -/
theorem drop_frame_cons (b0 b1 fc hi lo c t0 t1 : Byte) (payload rest : List Byte)
    (hp : payload.length = hi.toNat * 256 + lo.toNat) :
    (b0 :: b1 :: fc :: hi :: lo :: (payload ++ c :: t0 :: t1 :: rest)).drop
      (8 + frameLen (b0 :: b1 :: fc :: hi :: lo :: (payload ++ c :: t0 :: t1 :: rest))) = rest := by
  rw [frameLen_eq_headerLen, headerLen_cons, ← hp, show 8 + payload.length = payload.length + 3 + 5 by omega]
  simp

/-- Settles O31: no enabled gate rejects the frame, so F_EMIT is selected; the flags, the warnings and the `Msg` are read
off the frame's bytes. -/
theorem emittedFrameIsDeliveredWhole : Obligations.EmittedFrameIsDeliveredWhole := by
  intro s i ts b0 b1 fc hh hl c t0 t1 payload rest f computed len cOk tOk warn hi hs hp hb hg0 hg1
  have hfields := frameFields_cons s.par b0 b1 fc hh hl c t0 t1 payload rest hp
  have hdrop := drop_frame_cons b0 b1 fc hh hl c t0 t1 payload rest hp
  have hwarn (code : WarnCode) : warning i ts f.buf code = warn code := by rw [hb, warning_cons]
  rw [← hb] at hfields hdrop
  have hc : csumOk f.buf = cOk := congrArg Frame.csumOk hfields
  have ht : trailerOk s.par f.buf = tOk := congrArg Frame.trailerOk hfields
  have hr : rejects s.par s.ctrl f.buf = false := not_rejects_iff.2 ⟨by rwa [hc], by rwa [ht]⟩
  refine ⟨f.msgPort i, f.msgRole i, fun b hbound => by simp only [Slot.msgPort, Slot.msgRole, hbound, and_self],
    exec_framerOp_next (o := .emit) ⟨hi, hs, hr⟩ ?_⟩
  simp only [framerEffect, fEmit, mismatchWarnings, countMismatches, frameMsg, Slot.drop]
  rw [show s.slot i = f from rfl, hfields, hdrop, hc, ht, hwarn, hwarn]
  rfl

/-- Settles O32: an enabled gate rejects the frame, so F_DISCARD is selected; the flags and the warnings are read off the
frame's bytes. -/
theorem rejectedFrameDropsOneByte : Obligations.RejectedFrameDropsOneByte := by
  intro s i ts b0 b1 fc hh hl c t0 t1 payload rest f len cOk tOk warn hi hs hp hb hg
  have hfields := frameFields_cons s.par b0 b1 fc hh hl c t0 t1 payload rest hp
  have hwarn (code : WarnCode) : warning i ts f.buf code = warn code := by rw [hb, warning_cons]
  rw [← hb] at hfields
  have hc : csumOk f.buf = cOk := congrArg Frame.csumOk hfields
  have ht : trailerOk s.par f.buf = tOk := congrArg Frame.trailerOk hfields
  have hr : rejects s.par s.ctrl f.buf = true := rejects_iff.2 (by rwa [hc, ht])
  refine exec_framerOp_next (o := .discard) ⟨hi, hs, hr⟩ ?_
  simp only [framerEffect, fDiscard, mismatchWarnings, countMismatches, Slot.drop]
  rw [show s.slot i = f from rfl, hc, ht, hwarn, hwarn, hwarn, hb]
  rfl

end Sys2Proof.Machine
end

section
/-! Runs to quiescence (41 R103, R104): the fuel never ends one, so a run can be followed step by step; and what it costs.
O34, O35, O36, O37 and O40. -/

namespace Sys2Proof.Machine

variable {p : Params} {ctrl : Word} {i ts : Nat}

/-! ### A frame that is present stays present -/

theorem Slot.frameComplete_of_ne {f : Slot} (h : f.st ≠ .haveFrame) : f.FrameComplete := fun hs => absurd hs h

theorem Slot.FrameComplete.extend {f : Slot} (h : f.FrameComplete) (x : List Byte) :
    Slot.FrameComplete { f with buf := f.buf ++ x } := by
  intro hs
  have hw := h hs
  rw [headerLen_append (by omega), List.length_append]
  omega

/-- Settles O34: a step lowers the measure and makes good what its new state promises. -/
theorem everyFramerStepLowersMu : Obligations.EveryFramerStepLowersMu :=
  fun _ _ _ _ _ hc => ⟨fun b => hc.extend [b],
    fun _ _ h => ⟨mu_lt_of_framerStep hc h, (framed_of_framerStep h).complete⟩⟩

/-! ### Waiting -/

/-- Settles O35: each operation that does not wait has a condition that shuts out the three states. -/
theorem framerWaitsExactlyWhenQuiescent : Obligations.FramerWaitsExactlyWhenQuiescent := by
  intro p ctrl i ts f
  refine ⟨⟨framerStep_wait_cases, fun hq => ?_⟩, fun hw => ?_⟩
  · cases hs : framerStep p ctrl i ts f with
    | wait => rfl
    | next f' evs =>
      exfalso
      rcases framerStep_cases hs with ⟨hst, ho, -⟩ | ⟨hst, hl, -⟩ | ⟨hst, hl, hL, -⟩ | ⟨hst, hl, hL, hb, -⟩ |
        ⟨hst, -⟩ | ⟨hst, -⟩ | ⟨hst, -⟩ <;> simp only [hst, reduceCtorEq, true_and, false_and, or_false, false_or] at hq
      · have := opensWithSync_length ho
        omega
      · omega
      · omega
      · omega
  · rcases framerStep_wait_cases hw with ⟨-, h⟩ | ⟨-, h⟩ | ⟨-, hL, hb⟩ <;> omega

/-! ### Following a run -/

/-- Induction along a run to quiescence, by the measure that every step lowers (41 R103). -/
theorem run_induction {P : Slot → Prop} (wait : ∀ f, framerStep p ctrl i ts f = .wait → P f)
    (next : ∀ f f' evs, f.FrameComplete → framerStep p ctrl i ts f = .next f' evs → P (f'.emit evs) → P f) {f : Slot}
    (hc : f.FrameComplete) : P f := by
  induction hm : mu f using Nat.strong_induction_on generalizing f with
  | _ m ih =>
    cases hs : framerStep p ctrl i ts f with
    | wait => exact wait f hs
    | next f' evs =>
      have hmu := mu_lt_of_framerStep hc hs
      exact next f f' evs hc hs (ih (mu f') (by omega) ((framed_of_framerStep hs).emit evs).complete rfl)

/-- Any fuel above the measure gives the same run (41 R103). -/
theorem runFramer_eq_runToQuiescence {f : Slot} (hc : f.FrameComplete) {k : Nat} (hk : mu f < k) :
    runFramer p ctrl i ts k f = runToQuiescence p ctrl i ts f := by
  suffices h : ∀ k k', mu f < k → mu f < k' → runFramer p ctrl i ts k f = runFramer p ctrl i ts k' f from
    h k _ hk (Nat.lt_succ_self _)
  refine run_induction (p := p) (ctrl := ctrl) (i := i) (ts := ts)
    (P := fun f => ∀ k k', mu f < k → mu f < k' → runFramer p ctrl i ts k f = runFramer p ctrl i ts k' f)
    (fun f hs k k' _ _ => ?_) (fun f f' evs hc hs ih k k' hk hk' => ?_) hc
  · rw [runFramer_wait hs, runFramer_wait hs]
  · obtain ⟨k, rfl⟩ : ∃ n, k = n + 1 := ⟨k - 1, by omega⟩
    obtain ⟨k', rfl⟩ : ∃ n, k' = n + 1 := ⟨k' - 1, by omega⟩
    have hmu := mu_lt_of_framerStep hc hs
    rw [runFramer_next hs, runFramer_next hs]
    exact ih k k' (by rw [mu_emit]; omega) (by rw [mu_emit]; omega)

theorem runToQuiescence_wait {f : Slot} (h : framerStep p ctrl i ts f = .wait) :
    runToQuiescence p ctrl i ts f = f := runFramer_wait h

/-- A run takes the step that applies and goes on from there (41 R104). -/
theorem runToQuiescence_next {f f' : Slot} {evs : List Event} (hc : f.FrameComplete)
    (h : framerStep p ctrl i ts f = .next f' evs) :
    runToQuiescence p ctrl i ts f = runToQuiescence p ctrl i ts (f'.emit evs) := by
  rw [runToQuiescence, runFramer_next h]
  exact runFramer_eq_runToQuiescence ((framed_of_framerStep h).emit evs).complete
    (by rw [mu_emit]; exact mu_lt_of_framerStep hc h)

@[simp] theorem Slot.emit_nil (f : Slot) : f.emit [] = f := by simp [Slot.emit]

theorem runToQuiescence_next_silent {f f' : Slot} (hc : f.FrameComplete)
    (h : framerStep p ctrl i ts f = .next f' []) :
    runToQuiescence p ctrl i ts f = runToQuiescence p ctrl i ts f' := by
  rw [runToQuiescence_next hc h, Slot.emit_nil]

theorem Slot.Quiet.append_run {f : Slot} (h : f.Quiet p) (b : Byte) :
    (Machine.runToQuiescence p ctrl i ts (f.append b)).Quiet p :=
  (h.framed.append b).quiet_runFramer (Nat.lt_succ_self _)

/-! ### Ending the run -/

theorem Slot.quiet_of_empty {f : Slot} (hs : f.st = .seeking) (hb : f.buf = []) : f.Quiet p :=
  .inl ⟨hs, by simp [hb]⟩

/-- With nothing buffered, a framer that seeks or has yielded is quiescent after at most one step (41 R101). -/
theorem quiet_runFramer_of_empty {f : Slot} (hs : f.st = .seeking ∨ f.st = .yielded) (hb : f.buf = []) (k : Nat) :
    (runFramer p ctrl i ts (k + 1) f).Quiet p := by
  rcases hs with hs | hs
  · have hq : f.Quiet p := Slot.quiet_of_empty hs hb
    rw [runFramer_wait hq.framerStep]
    exact hq
  · have hq : Slot.Quiet p (Slot.emit { f with st := .seeking } []) := Slot.quiet_of_empty rfl hb
    rw [runFramer_next (framerStep_resume hs), runFramer_wait hq.framerStep]
    exact hq

/-- The evaluation of HaveFrame consumes at least one byte of a buffer that is not empty, whole frame or not
(41 R99, R100). -/
theorem haveFrame_step {f f' : Slot} {evs : List Event} (hs : f.st = .haveFrame)
    (h : framerStep p ctrl i ts f = .next f' evs) :
    (f'.st = .seeking ∨ f'.st = .yielded) ∧ f'.buf.length ≤ f.buf.length - 1 := by
  rcases framerStep_cases h with ⟨hs', -⟩ | ⟨hs', -⟩ | ⟨hs', -⟩ | ⟨hs', -⟩ | ⟨-, -, h⟩ | ⟨-, -, h⟩ | ⟨hs', -⟩
  iterate 4 · cases hs.symm.trans hs'
  · obtain ⟨rfl, -⟩ := FramerResult.next.inj h
    refine ⟨.inr rfl, ?_⟩
    simp only [Slot.buf_drop, buf_countMismatches, List.length_drop]
    omega
  · obtain ⟨rfl, -⟩ := FramerResult.next.inj h
    refine ⟨.inl rfl, ?_⟩
    simp only [Slot.buf_drop, buf_countMismatches, List.length_drop, Nat.le_refl]
  · cases hs.symm.trans hs'

/-- A run from any slot ends waiting. The one slot whose first step need not lower the measure is in HaveFrame without
its whole frame; after that step no promise is broken, and the fuel left is enough. -/
theorem framerStep_runToQuiescence (f : Slot) :
    framerStep p ctrl i ts (runToQuiescence p ctrl i ts f) = .wait := by
  cases hs : framerStep p ctrl i ts f with
  | wait => rw [runToQuiescence_wait hs, hs]
  | next f' evs =>
    have hf' := (framed_of_framerStep hs).emit evs
    rw [runToQuiescence, runFramer_next hs]
    by_cases hc : f.FrameComplete
    · have hmu := mu_lt_of_framerStep hc hs
      exact (hf'.quiet_runFramer (by rw [mu_emit]; omega)).framerStep
    · have hst : f.st = .haveFrame := by
        by_contra hne
        exact hc (Slot.frameComplete_of_ne hne)
      obtain ⟨hst', hlen⟩ := haveFrame_step hst hs
      have hmu : mu f = 5 * f.buf.length + 1 := by rw [mu, hst]; rfl
      have hrank : rank f'.st ≤ 4 := by cases f'.st <;> decide
      rcases Nat.eq_zero_or_pos f.buf.length with h0 | hpos
      · have hb : f'.buf = [] := List.length_eq_zero_iff.1 (by omega)
        rw [hmu]
        exact (quiet_runFramer_of_empty (f := f'.emit evs) hst' hb _).framerStep
      · exact (hf'.quiet_runFramer (by rw [mu_emit, mu]; omega)).framerStep

/-- Settles O36: the run ends waiting, and every step of it only appends to the queue. -/
theorem runToQuiescenceEndsWaiting : Obligations.RunToQuiescenceEndsWaiting := by
  intro p ctrl i ts f
  refine ⟨framerStep_runToQuiescence f, runFramer_induction (P := fun g => ∃ evs, g.outq = f.outq ++ evs)
    (fun g g' new ⟨old, hq⟩ hs => ⟨old ++ new, ?_⟩) _ f ⟨[], (List.append_nil _).symm⟩⟩
  obtain ⟨-, -, -, -, hq'⟩ := framerStep_frame hs
  rw [Slot.outq_emit, hq', hq, List.append_assoc]

/-- Settles O37: a feed of the first bytes ends quiescent, and a quiescent buffer has room for one byte more. -/
theorem feedKeepsTheBufferBounded : Obligations.FeedKeepsTheBufferBounded := by
  intro p ctrl i ts data f hq
  refine ⟨hq.feed data, fun k b _ => ?_⟩
  have hlen := (hq.feed (ctrl := ctrl) (i := i) (ts := ts) (data.take k)).length_le
  refine ⟨hlen, ?_⟩
  rw [Slot.buf_append, List.length_append, List.length_singleton]
  omega

/-! ### What a feed costs -/

/-- Every step of a run is paid for by the measure (41 R103). -/
theorem runCost_add_mu_le {f : Slot} (hc : f.FrameComplete) (k : Nat) :
    runCost p ctrl i ts k f + mu (runFramer p ctrl i ts k f) ≤ mu f := by
  induction k generalizing f with
  | zero => exact Nat.le_of_eq (Nat.zero_add _)
  | succ k ih =>
    cases hs : framerStep p ctrl i ts f with
    | wait => simp only [runCost, runFramer, hs, Nat.zero_add, Nat.le_refl]
    | next f' evs =>
      have hmu := mu_lt_of_framerStep hc hs
      have hrest := ih ((framed_of_framerStep hs).emit evs).complete
      simp only [runCost, runFramer, hs]
      rw [mu_emit] at hrest
      omega

/-- An appended byte pays for five steps (41 R112). -/
theorem feedCost_add_mu_le {f : Slot} (h : f.Quiet p) (data : List Byte) :
    feedCost p ctrl i ts data f + mu (feed p ctrl i ts data f) ≤ mu f + 5 * data.length := by
  induction data generalizing f with
  | nil => exact Nat.le_of_eq (Nat.zero_add _)
  | cons b data ih =>
    have hrun := runCost_add_mu_le (p := p) (ctrl := ctrl) (i := i) (ts := ts) (h.framed.append b).complete
      (mu (f.append b) + 1)
    have hrest := ih (h.append_run (ctrl := ctrl) (i := i) (ts := ts) b)
    have hmu : mu (f.append b) = mu f + 5 := by
      simp only [mu, Slot.buf_append, Slot.st_append, List.length_append, List.length_singleton]
      omega
    rw [← runToQuiescence] at hrun
    simp only [feedCost, feed_cons, List.length_cons]
    omega

/-- Settles O40: the measure of a fresh framer is 3. -/
theorem feedCostIsLinear : Obligations.FeedCostIsLinear := by
  intro p ctrl i ts data f hs hb
  have hcost := feedCost_add_mu_le (p := p) (ctrl := ctrl) (i := i) (ts := ts) (Slot.quiet_of_empty hs hb) data
  have hmu : mu f = 3 := by rw [mu, hs, hb]; rfl
  omega

end Sys2Proof.Machine
end

section
/-! Split independence (41 R107): a datagram fed whole ends as one fed byte by byte, and timestamps enter the events
alone. O38. -/

namespace Sys2Proof.Machine

variable {p : Params} {ctrl : Word} {i ts : Nat}

/-! ### Feeding whole -/

/-- Bytes appended before a run may as well be appended after it: the run takes the steps it takes without them, and
goes on (41 R107). -/
theorem runToQuiescence_extend {f : Slot} (hc : f.FrameComplete) (x : List Byte) :
    runToQuiescence p ctrl i ts { f with buf := f.buf ++ x } =
      runToQuiescence p ctrl i ts { runToQuiescence p ctrl i ts f with
        buf := (runToQuiescence p ctrl i ts f).buf ++ x } := by
  refine run_induction (p := p) (ctrl := ctrl) (i := i) (ts := ts)
    (P := fun f => runToQuiescence p ctrl i ts { f with buf := f.buf ++ x } =
      runToQuiescence p ctrl i ts { runToQuiescence p ctrl i ts f with
        buf := (runToQuiescence p ctrl i ts f).buf ++ x })
    (fun f hs => ?_) (fun f f' evs hc hs ih => ?_) hc
  · rw [runToQuiescence_wait hs]
  · rw [runToQuiescence_next hc hs, runToQuiescence_next (hc.extend x) (framerStep_append hc hs x)]
    exact ih

/-- One run after the whole datagram ends as a run after each of its bytes (41 R105, R107). -/
theorem Slot.Quiet.run_whole {f : Slot} (h : f.Quiet p) (data : List Byte) :
    Machine.runToQuiescence p ctrl i ts { f with buf := f.buf ++ data } = Machine.feed p ctrl i ts data f := by
  induction data generalizing f with
  | nil => rw [List.append_nil, feed_nil]; exact h.runToQuiescence
  | cons b data ih =>
    have hwhole := runToQuiescence_extend (p := p) (ctrl := ctrl) (i := i) (ts := ts) (h.framed.append b).complete data
    rw [Slot.buf_append, List.append_assoc, List.singleton_append] at hwhole
    rw [feed_cons, ← ih (h.append_run b)]
    exact hwhole

theorem feedWhole_eq_feedAll {f : Slot} (h : f.Quiet p) (ds : List (Nat × List Byte)) :
    feedWhole p ctrl i ds f = feedAll p ctrl i ds f := by
  induction ds generalizing f with
  | nil => rfl
  | cons d ds ih =>
    simp only [feedWhole, feedAll, List.foldl_cons] at ih ⊢
    rw [h.run_whole]
    exact ih (h.feed d.2)

/-! ### Timestamps -/

/-- The result of a framer step with every timestamp set to zero. -/
def FramerResult.eraseTs : FramerResult → FramerResult
  | .wait => .wait
  | .next f evs => .next f.eraseTs (evs.map Event.eraseTs)

theorem eraseTs_emit (f : Slot) (evs : List Event) :
    (f.emit evs).eraseTs = f.eraseTs.emit (evs.map Event.eraseTs) := by
  simp only [Slot.emit, Slot.eraseTs, List.map_append]

theorem map_eraseTs_mismatchWarnings (buf : List Byte) :
    (mismatchWarnings p i ts buf).map Event.eraseTs = mismatchWarnings p i 0 buf := by
  unfold mismatchWarnings
  cases trailerOk p buf <;> cases csumOk buf <;> rfl

/-- A framer step at time zero on a slot without timestamps is the step with its timestamps erased. -/
theorem framerStep_eraseTs (f : Slot) :
    framerStep p ctrl i 0 f.eraseTs = (framerStep p ctrl i ts f).eraseTs := by
  rw [framerStep_eq, framerStep_eq, show framerChoice p ctrl f.eraseTs = framerChoice p ctrl f from rfl]
  cases framerChoice p ctrl f with
  | emit | discard =>
    simp only [framerEffect, fEmit, fDiscard, FramerResult.eraseTs, List.map_append, map_eraseTs_mismatchWarnings]
    rfl
  | _ => rfl

theorem runFramer_eraseTs (k : Nat) (f : Slot) :
    (runFramer p ctrl i ts k f).eraseTs = runFramer p ctrl i 0 k f.eraseTs := by
  induction k generalizing f with
  | zero => rfl
  | succ k ih =>
    have herase := framerStep_eraseTs (p := p) (ctrl := ctrl) (i := i) (ts := ts) f
    cases hs : framerStep p ctrl i ts f with
    | wait =>
      rw [hs] at herase
      rw [runFramer_wait hs, runFramer_wait herase]
    | next f' evs =>
      rw [hs] at herase
      rw [runFramer_next hs, runFramer_next herase, ih, eraseTs_emit]

theorem feed_eraseTs (data : List Byte) (f : Slot) :
    (feed p ctrl i ts data f).eraseTs = feed p ctrl i 0 data f.eraseTs := by
  induction data generalizing f with
  | nil => rfl
  | cons b data ih => rw [feed_cons, feed_cons, ih, runToQuiescence, runFramer_eraseTs]; rfl

/-- But for timestamps, a feed of datagrams is the feed of the bytes they divide. -/
theorem feedAll_eraseTs (ds : List (Nat × List Byte)) (f : Slot) :
    (feedAll p ctrl i ds f).eraseTs = feed p ctrl i 0 (ds.map Prod.snd).flatten f.eraseTs := by
  induction ds generalizing f with
  | nil => rfl
  | cons d ds ih =>
    rw [List.map_cons, List.flatten_cons, feed_append, ← feed_eraseTs (ts := d.1)]
    exact ih _

/-- Settles O38: a datagram fed whole ends as one fed byte by byte, and without timestamps only the bytes count. -/
theorem framingIsIndependentOfTheSplit : Obligations.FramingIsIndependentOfTheSplit := by
  intro p ctrl i ds es f hq
  refine ⟨feedWhole_eq_feedAll hq ds, fun hbytes => ?_⟩
  rw [feedAll_eraseTs, feedAll_eraseTs, hbytes]

end Sys2Proof.Machine
end

section
/-! Garbage without a sync pair, then an encoded frame (41 R113): O39. -/

namespace Sys2Proof.Machine

variable {p : Params} {ctrl : Word} {i ts : Nat}

theorem opensWithSync_iff_getElem? {buf : List Byte} :
    opensWithSync p buf ↔ buf[0]? = some p.sync0 ∧ buf[1]? = some p.sync1 := by
  match buf with
  | [] | [_] => simp [opensWithSync]
  | b0 :: b1 :: rest => simp [opensWithSync]

/-- A run drops and counts garbage in which no sync pair starts, and comes to what follows it (41 R93). -/
theorem runToQuiescence_garbage {f : Slot} {garbage rest : List Byte} (hs : f.st = .seeking)
    (hb : f.buf = garbage ++ rest) (hr : rest ≠ [])
    (hno : ∀ k, k < garbage.length →
      ¬((garbage ++ rest)[k]? = some p.sync0 ∧ (garbage ++ rest)[k + 1]? = some p.sync1)) :
    runToQuiescence p ctrl i ts f = runToQuiescence p ctrl i ts
      { f with buf := rest, resyncDrops := add f.resyncDrops garbage.length } := by
  induction garbage generalizing f with
  | nil => rw [List.length_nil, add_zero_count]; subst hb; rfl
  | cons b garbage ih =>
    have hpos := List.length_pos_iff.2 hr
    have h2 : 2 ≤ f.buf.length := by
      rw [hb, List.length_append, List.length_cons]
      omega
    have ho : ¬opensWithSync p f.buf := by
      rw [opensWithSync_iff_getElem?, hb]
      exact hno 0 (Nat.zero_lt_succ _)
    have hstep : framerStep p ctrl i ts f =
        .next { f with buf := garbage ++ rest, resyncDrops := inc f.resyncDrops } [] := by
      rw [framerStep_drop hs h2 ho, fDrop, Slot.drop, hb]
      rfl
    rw [runToQuiescence_next_silent (Slot.frameComplete_of_ne (by simp [hs])) hstep,
      ih (f := { f with buf := garbage ++ rest, resyncDrops := inc f.resyncDrops }) hs rfl
        fun k hk => hno (k + 1) (Nat.succ_lt_succ hk),
      List.length_cons, Nat.add_comm garbage.length 1,
      ← add_add, add_one_count]

/-- A framer that has yielded with nothing left to read seeks again (41 R101). -/
theorem runToQuiescence_yielded {f : Slot} (hs : f.st = .yielded) (hb : f.buf = []) :
    runToQuiescence p ctrl i ts f = { f with st := .seeking } := by
  have hquiet : Slot.Quiet p { f with st := .seeking } := Slot.quiet_of_empty rfl hb
  rw [runToQuiescence_next_silent (Slot.frameComplete_of_ne (by simp [hs])) (framerStep_resume hs),
    hquiet.runToQuiescence]

/-- A run delivers a frame that is alone in the buffer and right in every part: F_SYNC, F_READY, F_EMIT, F_RESUME. -/
theorem runToQuiescence_frame {f : Slot} (hs : f.st = .seeking) (ho : opensWithSync p f.buf)
    (hL : headerLen f.buf ≤ p.maxLen.toNat) (hlen : f.buf.length = 8 + headerLen f.buf) (hc : csumOk f.buf = true)
    (ht : trailerOk p f.buf = true) :
    runToQuiescence p ctrl i ts f =
      { f with st := .seeking, buf := [], framesOk := inc f.framesOk, outq := f.outq ++ [frameMsg p i ts f] } := by
  have hr : rejects p ctrl f.buf = false := by simp [rejects, hc, ht]
  have hemit : framerStep p ctrl i ts { f with st := .haveFrame } =
      .next { f with st := .yielded, buf := [], framesOk := inc f.framesOk } [frameMsg p i ts f] := by
    have hdrop : f.buf.drop (8 + headerLen f.buf) = [] := List.drop_eq_nil_of_le (Nat.le_of_eq hlen)
    rw [framerStep_emit (f := { f with st := .haveFrame }) rfl hr]
    simp only [fEmit, mismatchWarnings, countMismatches, hc, ht, Slot.drop, frameLen_eq_headerLen, hdrop, if_true]
    rfl
  calc runToQuiescence p ctrl i ts f
    _ = runToQuiescence p ctrl i ts { f with st := .haveHeader } :=
      runToQuiescence_next_silent (Slot.frameComplete_of_ne (by simp [hs])) (framerStep_sync hs ho)
    _ = runToQuiescence p ctrl i ts { f with st := .haveFrame } :=
      runToQuiescence_next_silent (Slot.frameComplete_of_ne nofun)
        (framerStep_ready (f := { f with st := .haveHeader }) rfl hL (Nat.le_of_eq hlen.symm))
    _ = runToQuiescence p ctrl i ts (Slot.emit { f with st := .yielded, buf := [], framesOk := inc f.framesOk }
          [frameMsg p i ts f]) := runToQuiescence_next (fun _ => Nat.le_of_eq hlen.symm) hemit
    _ = _ := runToQuiescence_yielded rfl rfl

/-! ### Reading the events -/

theorem eraseTs_eq_msg {e : Event} {m : Msg} (h : e.eraseTs = .msg m) : ∃ ts, e = .msg { m with ts := ts } := by
  cases e with
  | msg m' =>
    cases h
    exact ⟨m'.ts, rfl⟩
  | warn w => cases h

theorem feedAll_outq (ds : List (Nat × List Byte)) (f : Slot) :
    ∃ evs, (feedAll p ctrl i ds f).outq = f.outq ++ evs := by
  induction ds generalizing f with
  | nil => exact ⟨[], (List.append_nil _).symm⟩
  | cons d ds ih =>
    obtain ⟨evs, hd⟩ := feed_outq (p := p) (ctrl := ctrl) (i := i) (ts := d.1) d.2 f
    obtain ⟨evs', hds⟩ := ih (feed p ctrl i d.1 d.2 f)
    exact ⟨evs ++ evs', by rw [← List.append_assoc, ← hd]; exact hds⟩

/-- Where the slot without timestamps shows one `Msg` more than before, the feed has appended that `Msg` with some
timestamp. -/
theorem feedAll_outq_of_eraseTs {ds : List (Nat × List Byte)} {f : Slot} {m : Msg}
    (h : (feedAll p ctrl i ds f).eraseTs.outq = (f.outq ++ [Event.msg m]).map Event.eraseTs) :
    ∃ ts, (feedAll p ctrl i ds f).outq = f.outq ++ [.msg { m with ts := ts }] := by
  obtain ⟨evs, hq⟩ := feedAll_outq (p := p) (ctrl := ctrl) (i := i) ds f
  simp only [Slot.eraseTs, hq, List.map_append, List.map_cons, List.map_nil, List.append_cancel_left_eq] at h
  obtain ⟨e, rfl, he⟩ := List.map_eq_singleton_iff.1 h
  obtain ⟨ts, rfl⟩ := eraseTs_eq_msg he
  exact ⟨ts, hq⟩

/-! ### The encoded frame -/

/-- An encoded frame passes every check on the way from Seeking to Yielded: its sync pair, its declared length, its
extent, and the fields decoded from it (40 R85). -/
theorem fields_of_encodeFrame {fc : Byte} {payload frame : List Byte} (h : encodeFrame p fc payload = some frame)
    (hmax : payload.length ≤ p.maxLen.toNat) :
    opensWithSync p frame ∧ headerLen frame = payload.length ∧ frame.length = 8 + headerLen frame
      ∧ frameFields p frame =
        { funcCode := fc
          length := BitVec.ofNat 16 payload.length
          payload := payload
          csumRx := csum p fc (BitVec.ofNat 16 payload.length) payload
          csumCalc := csum p fc (BitVec.ofNat 16 payload.length) payload
          csumOk := true
          trailerOk := true
          consumed := 8 + payload.length } := by
  obtain ⟨hflen, -, -⟩ := checksumCoversHeaderAndPayload p fc payload frame h
  have hopen : opensWithSync p frame := by
    obtain ⟨hi, lo, -, -, rfl⟩ := eq_of_encodeFrame h
    rfl
  have hL : headerLen frame = payload.length := by
    obtain ⟨hi, lo, hlen, -, rfl⟩ := eq_of_encodeFrame h
    rw [headerLen_cons, hlen]
  refine ⟨hopen, hL, by rw [hL, hflen], ?_⟩
  obtain ⟨hp, -⟩ := Option.ite_none_right_eq_some.1 h
  obtain ⟨frame', h', hdec⟩ := decodingAnEncodedFrameGivesItBack p fc payload [] hp
  cases h.symm.trans h'
  rw [List.append_nil, if_pos hmax, decodeFrame_eq_frame hopen (by omega) (by omega)] at hdec
  exact DecodeResult.frame.inj hdec

/-- A run on garbage without a sync pair and then an encoded frame drops the one and delivers the other. -/
theorem runToQuiescence_garbage_frame {f : Slot} {garbage frame payload : List Byte} {fc : Byte}
    (hs : f.st = .seeking) (hb : f.buf = garbage ++ frame) (hmax : payload.length ≤ p.maxLen.toNat)
    (henc : encodeFrame p fc payload = some frame)
    (hno : ∀ k, k < garbage.length →
      ¬((garbage ++ frame)[k]? = some p.sync0 ∧ (garbage ++ frame)[k + 1]? = some p.sync1)) :
    runToQuiescence p ctrl i ts f =
      { f with
        st := .seeking
        buf := []
        resyncDrops := add f.resyncDrops garbage.length
        framesOk := inc f.framesOk
        outq := f.outq ++ [frameMsg p i ts { f with buf := frame }] } := by
  obtain ⟨hopen, hL, hlen, hfields⟩ := fields_of_encodeFrame henc hmax
  have hne : frame ≠ [] := List.ne_nil_of_length_pos (by omega)
  rw [runToQuiescence_garbage hs hb hne hno]
  exact runToQuiescence_frame (f := { f with buf := frame, resyncDrops := add f.resyncDrops garbage.length }) hs hopen
    (hL.trans_le hmax) hlen (congrArg Frame.csumOk hfields) (congrArg Frame.trailerOk hfields)

/-- Settles O39: but for timestamps the division does not matter, so the bytes may enter whole (O38); the run then drops
the garbage and delivers the frame. -/
theorem garbageWithoutSyncPairThenFrameGivesOneMsg : Obligations.GarbageWithoutSyncPairThenFrameGivesOneMsg := by
  intro p ctrl i ds f garbage frame payload fc hs hb hmax henc hbytes hno
  have hq : f.Quiet p := Slot.quiet_of_empty hs hb
  have hsplit : (feedAll p ctrl i ds f).eraseTs =
      (runToQuiescence p ctrl i 0 { f with buf := garbage ++ frame }).eraseTs := by
    have hwhole := hq.run_whole (ctrl := ctrl) (i := i) (ts := 0) (garbage ++ frame)
    rw [hb, List.nil_append] at hwhole
    rw [hwhole, feed_eraseTs, feedAll_eraseTs, hbytes]
  rw [runToQuiescence_garbage_frame (f := { f with buf := garbage ++ frame }) hs rfl hmax henc hno] at hsplit
  obtain ⟨-, hL, -, hfields⟩ := fields_of_encodeFrame henc hmax
  obtain ⟨ts, hmsg⟩ := feedAll_outq_of_eraseTs (congrArg Slot.outq hsplit)
  refine ⟨congrArg Slot.st hsplit, congrArg Slot.buf hsplit, congrArg Slot.resyncDrops hsplit, _, hmsg, rfl,
    fun b hbound => ?_, congrArg Frame.funcCode hfields, ?_, congrArg Frame.payload hfields,
    congrArg Frame.csumRx hfields, congrArg Frame.csumCalc hfields, congrArg Frame.csumOk hfields,
    congrArg Frame.trailerOk hfields⟩
  · simp only [Slot.msgPort, Slot.msgRole, hbound, and_self]
  · rw [← hL, ← frameLen_eq_headerLen]
    rfl

end Sys2Proof.Machine
end

section
/-! What moves a framer, and what it is independent of (41 R109, R111): O58 and O60. -/

namespace Sys2Proof.Machine

/-- The framer of `g` is in the state and has the buffer of the framer of `f`. -/
def Slot.SameFramer (f g : Slot) : Prop := g.st = f.st ∧ g.buf = f.buf

/-- Rewriting one slot leaves every framer as it was, if it leaves that slot's. -/
theorem sameFramer_mapSlot {s : State} {j : Nat} {g : Slot → Slot} (h : (s.slot j).SameFramer (g (s.slot j)))
    (i : Nat) : (s.slot i).SameFramer ((s.mapSlot j g).slot i) := by
  rcases slot_mapSlot_cases s j i g with ⟨rfl, -, e⟩ | e <;> rw [e]
  · exact h
  · exact ⟨rfl, rfl⟩

/-- What can move the framer of slot `i` in a step from `s` to `t` (41 R111). -/
def FramerMoved (s t : State) (i : Nat) : Prop :=
  s.inbox.head? = some .reset
    ∨ (∃ v : Word, s.inbox.head? = some (.write 0x00C 4 v)
        ∧ ((v.toNat % 4 = 1 ∧ s.status.running = false ∧ t.status.running = true)
          ∨ (v.toNat % 4 = 2 ∧ s.status.running = true)))
    ∨ ∃ b data ts, s.inbox.head? = some (.dgram b.port data ts) ∧ (s.slot i).bound = some b ∧ data ≠ []
        ∧ s.status.running = true

/-- Everything a step can do leaves a framer as it is, or is one of the causes of 41 R111. -/
theorem Stepped.sameFramer {s t : State} {i : Nat} (h : Stepped s t) (hinv : s.Inv) (hi : i < s.nPorts) :
    (s.slot i).SameFramer (t.slot i) ∨ FramerMoved s t i := by
  cases h with
  | answered | wrCtrl | wrStatus | cmdIllegal | unrouted => exact .inl ⟨rfl, rfl⟩
  | wrPortCfg | deliver =>
    exact .inl (sameFramer_mapSlot (s := { s with inbox := s.inbox.tail }) ⟨rfl, rfl⟩ i)
  | start v head code =>
    rcases slot_startCommand { s with inbox := s.inbox.tail } hi with ⟨e, -⟩ | ⟨hstopped, hrunning, -⟩
    · left
      rw [slot_drive, e]
      exact ⟨rfl, rfl⟩
    · exact .inr (.inr (.inl ⟨v, head, .inl ⟨code, hstopped, hrunning⟩⟩))
  | stop v head code =>
    rcases slot_stopCommand { s with inbox := s.inbox.tail } hi with ⟨hrunning, -⟩ | ⟨-, e⟩
    · exact .inr (.inr (.inl ⟨v, head, .inr ⟨code, hrunning⟩⟩))
    · left
      rw [slot_drive, e]
      exact ⟨rfl, rfl⟩
  | framer j ts f evs _ hj taken =>
    obtain ⟨hquiet, -⟩ := hinv.slotsOk j hj
    rw [hquiet.framerStep] at taken
    cases taken
  | routed port data ts j head route =>
    obtain ⟨hrunning, hroute⟩ := ingressSlot_eq_some.1 route
    obtain ⟨-, ⟨b, hb, rfl⟩, -⟩ := route_eq_some hroute
    rcases eq_or_ne i j with rfl | hij
    · rcases eq_or_ne data [] with rfl | hdata
      · exact .inl (sameFramer_mapSlot (s := { s with inbox := s.inbox.tail }) ⟨rfl, rfl⟩ i)
      · exact .inr (.inr (.inr ⟨b, data, ts, head, hb, hdata, hrunning⟩))
    · left
      rw [slot_drive, slot_mapSlot_ne _ _ hij]
      exact ⟨rfl, rfl⟩
  | reset head => exact .inr (.inl head)

/-- Settles O58, by the cases of what a step can do. -/
theorem partialFramesNeverTimeOut : Obligations.PartialFramesNeverTimeOut := by
  intro s t i hinv h hi hchange
  rcases (step_cases h).sameFramer hinv hi with ⟨hst, hbuf⟩ | hmoved
  · exact absurd hchange (not_or.2 ⟨not_not.2 hst, not_not.2 hbuf⟩)
  · exact hmoved

theorem exec_dgramRouted {s : State} {port : BitVec 16} {i : Nat} (h : s.ingressSlot port = some i) (data : List Byte)
    (ts : Nat) :
    exec (.dgramRouted port data ts) s = .next ((s.mapSlot i (receive s.par s.ctrl i ts data)).drive .quiet) := by
  simp only [exec, execDgramRouted, h]

/-- Settles O60: a routed datagram rewrites its slot by what it reads of `CTRL`, the parameters and the slot itself. -/
theorem slotsDoNotInterfere : Obligations.SlotsDoNotInterfere := by
  intro s s' t t' i port data ts hpar hctrl hslot hin hin' h h'
  have lt {u : State} (hu : u.ingressSlot port = some i) : i < u.nPorts := by
    obtain ⟨-, hroute⟩ := ingressSlot_eq_some.1 hu
    exact (route_eq_some hroute).1
  cases (exec_dgramRouted hin data ts).symm.trans h
  cases (exec_dgramRouted hin' data ts).symm.trans h'
  refine ⟨?_, fun j hj => by rw [slot_drive, slot_mapSlot_ne _ _ hj]⟩
  rw [slot_drive, slot_drive, slot_mapSlot_self _ _ (lt hin), slot_mapSlot_self _ _ (lt hin'), hpar, hctrl, hslot]

end Sys2Proof.Machine
end

section
/-! Datagrams (42 R120 to R124): routing by distinct ports, and what a datagram does: O43 to O46. -/

namespace Sys2Proof.Machine

variable {s : State} {port : BitVec 16} {i : Nat}

/-- No two slots have bound the same port (10 R36). -/
def State.PortsDistinct (s : State) : Prop :=
  ∀ j k c d, j < s.nPorts → k < s.nPorts → j ≠ k → (s.slot j).bound = some c → (s.slot k).bound = some d →
    c.port ≠ d.port

theorem State.Inv.distinct (h : s.Inv) : s.PortsDistinct := h.portsDistinct

/-- Where bound ports are distinct, a slot that has bound the port is the one that `Route` finds. -/
theorem route_eq_some_iff (hd : s.PortsDistinct) :
    s.route port = some i ↔ i < s.nPorts ∧ ∃ b, (s.slot i).bound = some b ∧ b.port = port := by
  constructor
  · intro h
    obtain ⟨hi, hb, -⟩ := route_eq_some h
    exact ⟨hi, hb⟩
  · rintro ⟨hi, b, hb, rfl⟩
    cases hr : s.route b.port with
    | none => exact absurd rfl (route_eq_none_iff.1 hr i b hi hb)
    | some j =>
      obtain ⟨hj, ⟨c, hc, hport⟩, -⟩ := route_eq_some hr
      by_contra hne
      exact hd j i c b hj hi (fun e => hne (congrArg some e)) hc hb hport

/-- Settles O46: the invariant makes bound ports distinct and nonzero. -/
theorem routeFindsTheUniqueBoundSlot : Obligations.RouteFindsTheUniqueBoundSlot :=
  fun _ _ h => ⟨fun _ => route_eq_some_iff h.distinct, route_eq_none_iff.2 h.portsNonzero⟩

/-- A routed datagram replaces the slot it routes to and no other. -/
theorem exec_dgramRouted_set (h : s.ingressSlot port = some i) (data : List Byte) (ts : Nat) :
    exec (.dgramRouted port data ts) s = .next { s with
      slots := s.slots.set i (receive s.par s.ctrl i ts data (s.slot i)), out := .quiet } := by
  obtain ⟨-, hroute⟩ := ingressSlot_eq_some.1 h
  obtain ⟨hi, -⟩ := route_eq_some hroute
  rw [exec_dgramRouted h, mapSlot_eq_set _ _ hi, State.drive]

theorem exec_dgramUnrouted (h : s.ingressSlot port = none) (data : List Byte) (ts : Nat) :
    exec (.dgramUnrouted port data ts) s = .next { s with unrouted := s.unrouted + 1, out := .quiet } := by
  simp only [exec, execDgramUnrouted, h, State.drive, inc]

/-- With nothing to feed, only `RX_DGRAMS` moves. -/
theorem receive_nil (p : Params) (ctrl : Word) (i ts : Nat) (f : Slot) :
    receive p ctrl i ts [] f = { f with rxDgrams := f.rxDgrams + 1 } := by
  simp only [receive, feed, List.foldl_nil, List.length_nil, add_zero_count, inc]

/-- Settles O43: the slot is the one that routes, and the feed keeps its binding and its configuration. -/
theorem routedDatagramFeedsItsSlotOnly : Obligations.RoutedDatagramFeedsItsSlotOnly := by
  intro s i b data ts hrunning hdistinct hi hb
  have hroute : s.route b.port = some i := (route_eq_some_iff hdistinct).2 ⟨hi, b, hb, rfl⟩
  obtain ⟨hcfg, hbound, -⟩ := feed_frame (p := s.par) (ctrl := s.ctrl) (i := i) (ts := ts) data (s.slot i)
  exact ⟨exec_dgramRouted_set (ingressSlot_eq_some.2 ⟨hrunning, hroute⟩) data ts, hbound, hcfg⟩

/-- Settles O44: stopped or unbound, the port has no slot that receives. -/
theorem unroutedDatagramIsCountedAndDropped : Obligations.UnroutedDatagramIsCountedAndDropped :=
  fun _ _ data ts h => exec_dgramUnrouted (ingressSlot_eq_none.2 h) data ts

/-- Settles O45, by `receive_nil` where the datagram routes. -/
theorem emptyDatagramCountsOnly : Obligations.EmptyDatagramCountsOnly := by
  intro s port ts
  refine ⟨fun i h => ?_, fun h => exec_dgramUnrouted h [] ts⟩
  rw [exec_dgramRouted_set h, receive_nil]

end Sys2Proof.Machine
end

section
/-! The commands and delivery (42 R125 to R131): O47 to O51. -/

namespace Sys2Proof.Machine

theorem exec_cmdStart (s : State) (hi : BitVec 30) :
    exec (.cmdStart hi) s = .next (s.startCommand.drive .writeOk) := rfl

theorem exec_cmdStop (s : State) (hi : BitVec 30) :
    exec (.cmdStop hi) s = .next (s.stopCommand.drive .writeOk) := rfl

/-- The bind check reports the lowest slot that cannot be bound, with its cause (42 R126). -/
theorem bindCheck_of_lowest {s : State} {a i : Nat} {cause : BitVec 2}
    (h : s.CannotBind a i cause) (hlowest : ∀ j c, j < i → ¬s.CannotBind a j c) :
    ∃ c : BindCause, s.bindCheck a = some (i, c) ∧ c.bits = cause := by
  cases hcheck : s.bindCheck a with
  | none => exact absurd h (bindCheck_eq_none.1 hcheck i cause)
  | some found =>
    obtain ⟨j, c⟩ := found
    obtain ⟨hj, hbelow⟩ := bindCheck_eq_some hcheck
    have hij : j = i := Nat.le_antisymm (Nat.le_of_not_lt fun hlt => hbelow i cause hlt h)
      (Nat.le_of_not_lt fun hlt => hlowest j c.bits hlt hj)
    subst hij
    exact ⟨c, rfl, cannotBind_cause hj h⟩

/-- Settles O47: while running, START is a command error. -/
theorem startWhileRunningIsRefused : Obligations.StartWhileRunningIsRefused := by
  intro s hi hrunning
  obtain ⟨-, e⟩ | ⟨hstopped, -⟩ | ⟨hstopped, -⟩ := startCommand_cases s
  · rw [exec_cmdStart, e, State.drive, State.commandError]
  all_goals cases hrunning.symm.trans hstopped

/-- Settles O48: while stopped, START answers what the bind check does, and that is the lowest failure. -/
theorem failedStartReportsTheLowestSlot : Obligations.FailedStartReportsTheLowestSlot := by
  intro s hi i cause hstopped hcannot hlowest
  obtain ⟨c, hfound, rfl⟩ := bindCheck_of_lowest hcannot hlowest
  obtain ⟨hrunning, -⟩ | ⟨-, j, d, hcheck, e⟩ | ⟨-, hcheck, -⟩ := startCommand_cases s
  · cases hstopped.symm.trans hrunning
  · cases hfound.symm.trans hcheck
    rw [exec_cmdStart, e, State.drive, State.startFailed, slotBits]
  · cases hfound.symm.trans hcheck

/-- Settles O49: while stopped and with nothing to report, START starts every slot with its latched binding, whose
fields and role codes the statement writes out. -/
theorem successfulStartBindsEverySlot : Obligations.SuccessfulStartBindsEverySlot := by
  intro s hi hstopped hbindable
  have hpasses : s.bindCheck (s.attempt + 1) = none := bindCheck_eq_none.2 hbindable
  obtain ⟨hrunning, -⟩ | ⟨-, i, c, hcheck, -⟩ | ⟨-, -, e⟩ := startCommand_cases s
  · cases hstopped.symm.trans hrunning
  · cases hpasses.symm.trans hcheck
  · rw [exec_cmdStart, e, State.drive, State.startOk]
    rfl

/-- Settles O50, by the two things STOP can do. -/
theorem stopUnbindsAndIsIdempotent : Obligations.StopUnbindsAndIsIdempotent := by
  intro s hi
  obtain ⟨hrunning, e⟩ | ⟨hstopped, e⟩ := stopCommand_cases s
  · refine ⟨fun _ => ?_, fun h => (by cases hrunning.symm.trans h)⟩
    rw [exec_cmdStop, e, State.drive]
    rfl
  · refine ⟨fun h => (by cases hstopped.symm.trans h), fun _ => ?_⟩
    rw [exec_cmdStop, e, State.drive]

theorem exec_deliver {s : State} {i : Nat} {e : Event} {rest : List Event} (h : (s.slot i).outq = e :: rest) :
    exec (.deliver i) s = .next ((s.mapSlot i fun f => { f with outq := rest }).drive (.delivered i e)) := by
  simp only [exec, execDeliver, h]

/-- Settles O51: the head of the queue is handed over, and its slot alone is replaced. -/
theorem deliverHandsOverTheHeadEvent : Obligations.DeliverHandsOverTheHeadEvent := by
  intro s i e rest hi hqueued
  rw [exec_deliver hqueued, mapSlot_eq_set _ _ hi, State.drive]

end Sys2Proof.Machine
end

section
/-! Word accesses to registers (43 R140, R141): the register at an offset decides what the host is answered, and a write
to a read-only register (43 R154) is ignored. -/

namespace Sys2Proof

/-- The registers that the host reads only (43 R154). -/
def CsrReg.isReadOnly : CsrReg → Bool
  | .ctrl | .cmd | .status | .portCfg _ | .reserved => false
  | _ => true

end Sys2Proof

namespace Sys2Proof.Machine

variable {s : State}

theorem answersRead_of_regAt {off : Nat} {r : CsrReg} {d : Word} (hw : off < windowSize) (h4 : off % 4 = 0)
    (hreg : regAt s.nPorts off = r) (h : exec (readOp off r) s = readAnswer d s) :
    AnswersRead s off (readOp off r) d :=
  ⟨fun base => by rw [select_readWord s base hw h4, hreg], h⟩

theorem answersWrite_of_regAt {off : Nat} {r : CsrReg} {v : Word} {t : State} (hw : off < windowSize)
    (h4 : off % 4 = 0) (hreg : regAt s.nPorts off = r) (h : exec (writeOp off r v) s = .next (t.drive .writeOk)) :
    AnswersWrite s off v (writeOp off r v) t :=
  ⟨fun base => by rw [select_writeWord s base v hw h4, hreg], h⟩

theorem exec_writeOp_of_isReadOnly {r : CsrReg} (hr : r.isReadOnly = true) (off : Nat) (v : Word) :
    exec (writeOp off r v) s = writeIgnored s := by
  cases r with
  | ctrl | cmd | status | portCfg | reserved => cases hr
  | _ => rfl

theorem answersWrite_of_isReadOnly {off : Nat} {r : CsrReg} (hw : off < windowSize) (h4 : off % 4 = 0)
    (hreg : regAt s.nPorts off = r) (hr : r.isReadOnly = true) (v : Word) :
    AnswersWrite s off v (writeOp off r v) s :=
  answersWrite_of_regAt hw h4 hreg (exec_writeOp_of_isReadOnly hr off v)

/-- The ten registers of a slot's block are read-only (30 R70). -/
theorem isReadOnly_slotReg (i : Nat) {field : Nat} (h4 : field % 4 = 0) (hf : field < 0x28) :
    (slotReg i field).isReadOnly = true := by
  fun_cases slotReg i field
  case case11 => omega
  all_goals rfl

theorem answersRead_slotReg {i field : Nat} {d : Word} (hi : i < s.nPorts) (h8 : i < 8) (h4 : field % 4 = 0)
    (hf : field < 0x28) (h : exec (readOp (slotOffset i field) (slotReg i field)) s = readAnswer d s) :
    AnswersRead s (slotOffset i field) (readOp (slotOffset i field) (slotReg i field)) d :=
  answersRead_of_regAt (by simp only [slotOffset, windowSize]; omega) (by simp only [slotOffset]; omega)
    (regAt_slotReg hi (by omega)) h

theorem answersWrite_slotReg {i field : Nat} (hi : i < s.nPorts) (h8 : i < 8) (h4 : field % 4 = 0)
    (hf : field < 0x28) (v : Word) :
    AnswersWrite s (slotOffset i field) v (writeOp (slotOffset i field) (slotReg i field) v) s :=
  answersWrite_of_isReadOnly (by simp only [slotOffset, windowSize]; omega) (by simp only [slotOffset]; omega)
    (regAt_slotReg hi (by omega)) (isReadOnly_slotReg i h4 hf) v

end Sys2Proof.Machine
end

section
/-! Accesses that reach no register (43 R152, R153): reserved, outside the window, and refused. O18 and O19. -/

namespace Sys2Proof.Machine

variable {s : State}

/-- At a reserved offset a read answers zero and a write is ignored (43 R153). -/
theorem exec_csrReserved {off : Nat} (h : isReserved s.nPorts off = true) :
    exec (.csrReserved off none) s = readAnswer 0 s
      ∧ ∀ v, exec (.csrReserved off (some v)) s = writeIgnored s := by
  obtain ⟨h4, hw⟩ := isReserved_bounds h
  have hselected : off % 4 = 0 ∧ off < windowSize ∧ regAt s.nPorts off = .reserved :=
    ⟨h4, hw, (regAt_eq_reserved_iff h4 hw).2 h⟩
  exact ⟨if_pos hselected, fun _ => if_pos hselected⟩

/-- A step for a stimulus outside the window gets no response (43 R153). -/
theorem step_of_outsideWindow {x : Stimulus} {rest : List Stimulus} (hin : s.inbox = x :: rest)
    (hsel : s.select x = .rejected .outsideWindow) : step s = .next { s with inbox := rest, out := .noResponse } := by
  rw [step_of_select_rejected hin hsel, State.unselected_outsideWindow, State.drive]

/-- Settles O19: a reserved offset has no register, and from 0x300 on the decoder rejects the access. -/
theorem reservedOffsetsReadZeroIgnoreWrites : Obligations.ReservedOffsetsReadZeroIgnoreWrites := by
  intro s off v _
  refine ⟨fun hres => ?_, fun hout base width rest => ?_⟩
  · obtain ⟨h4, hw⟩ := isReserved_bounds hres
    obtain ⟨hread, hwrite⟩ := exec_csrReserved hres
    have hreg : regAt s.nPorts off = .reserved := (regAt_eq_reserved_iff h4 hw).2 hres
    exact ⟨answersRead_of_regAt hw h4 hreg hread, answersWrite_of_regAt hw h4 hreg (hwrite v)⟩
  · have hrel : (off : Int) < 0 ∨ (windowSize : Int) ≤ off := .inr (Int.ofNat_le.2 hout)
    exact ⟨fun hin => step_of_outsideWindow hin ((select_memRead s base off width).trans (decodeCsr_outside hrel)),
      fun hin => step_of_outsideWindow hin ((select_memWrite s base off width v).trans (decodeCsr_outside hrel))⟩

/-- Settles O18: in the window the decoder refuses such an access, and the refusal drives `BusErr` alone. -/
theorem misalignedAccessesAnswerBusErr : Obligations.MisalignedAccessesAnswerBusErr := fun s base off width v hw hm =>
  ⟨(select_memRead s base off width).trans (decodeCsr_misaligned hw hm),
    (select_memWrite s base off width v).trans (decodeCsr_misaligned hw hm),
    fun _ => exec_misaligned hw hm⟩

end Sys2Proof.Machine
end

section
/-! The global registers (43 R142, R143, R146, R147): O7, O8, O11 and O12. -/

namespace Sys2Proof.Machine

variable {s : State}

theorem toNat_append_eq_add {m n : Nat} (x : BitVec m) (y : BitVec n) :
    (x ++ y).toNat = x.toNat * 2 ^ n + y.toNat := by
  rw [BitVec.toNat_append, ← Nat.shiftLeft_add_eq_or_of_lt y.isLt, Nat.shiftLeft_eq]

theorem toNat_paramsWord (s : State) : s.paramsWord.toNat = s.nPorts % 16 * 2 ^ 16 + s.par.maxLen.toNat := by
  rw [State.paramsWord, BitVec.toNat_setWidth_of_le (by decide), toNat_append_eq_add, BitVec.toNat_ofNat]

/-- Settles O7, by what `PARAMS` reads as; it is read-only. -/
theorem paramsRegisterReportsParameters : Obligations.ParamsRegisterReportsParameters := fun s v =>
  ⟨⟨s.paramsWord, toNat_paramsWord s, answersRead_of_regAt (r := .params) (by decide) (by decide) rfl rfl⟩,
    answersWrite_of_isReadOnly (r := .params) (by decide) (by decide) rfl rfl v⟩

/-- The bytes of `PROTO`, from the lowest up (43 R143). -/
theorem extractLsb'_protoWord (s : State) :
    s.protoWord.extractLsb' 0 8 = s.par.sync0 ∧ s.protoWord.extractLsb' 8 8 = s.par.sync1
      ∧ s.protoWord.extractLsb' 16 8 = s.par.trailer0 ∧ s.protoWord.extractLsb' 24 8 = s.par.trailer1 := by
  have above {m start : Nat} {x : BitVec m} {b : Byte} :
      (x ++ b).extractLsb' (start + 8) 8 = x.extractLsb' start 8 :=
    BitVec.extractLsb'_append_eq_of_le (Nat.le_add_left 8 start)
  exact ⟨BitVec.extractLsb'_append_eq_right, above.trans BitVec.extractLsb'_append_eq_right,
    (above.trans above).trans BitVec.extractLsb'_append_eq_right,
    (above.trans above).trans BitVec.extractLsb'_append_eq_left⟩

/-- Settles O8, by the bytes of `PROTO`; it is read-only. -/
theorem protoRegisterReportsProtocolBytes : Obligations.ProtoRegisterReportsProtocolBytes := by
  intro s v
  obtain ⟨hsync0, hsync1, htrailer0, htrailer1⟩ := extractLsb'_protoWord s
  exact ⟨⟨s.protoWord, hsync0, hsync1, htrailer0, htrailer1,
      answersRead_of_regAt (r := .proto) (by decide) (by decide) rfl rfl⟩,
    answersWrite_of_isReadOnly (r := .proto) (by decide) (by decide) rfl rfl v⟩

theorem toNat_statusWord (t : Status) :
    t.word.toNat = t.running.toNat + 2 * t.startFail.toNat + 4 * t.cmdErr.toNat + 2 ^ 8 * t.failSlot.toNat
      + 2 ^ 12 * t.failCause.toNat := by
  simp only [Status.word, bit, toNat_append_eq_add, BitVec.toNat_ofBool, BitVec.ofNat_eq_ofNat,
    BitVec.toNat_ofNat]
  omega

/-- The write-one-to-clear rule of `STATUS` (43 R146), the flags as conjunctions. -/
theorem cleared_eq_and_not (t : Status) (v : Word) :
    t.cleared v = { t with
      startFail := t.startFail && !v.getLsbD 1
      cmdErr := t.cmdErr && !v.getLsbD 2
      failSlot := if v.getLsbD 1 then 0 else t.failSlot
      failCause := if v.getLsbD 1 then 0 else t.failCause } := by
  have hand (clear flag : Bool) : (if clear then false else flag) = (flag && !clear) := by cases clear <;> simp
  rw [Status.cleared, hand, hand]

theorem exec_wrStatus (s : State) (v : Word) :
    exec (.wrStatus v) s = .next ({ s with status := s.status.cleared v }.drive .writeOk) := rfl

/-- Settles O11, by the fields of the word and the rule of the write. -/
theorem statusRegisterReportsAndClears : Obligations.StatusRegisterReportsAndClears := by
  intro s v
  refine ⟨⟨s.status.word, toNat_statusWord s.status,
    answersRead_of_regAt (r := .status) (by decide) (by decide) rfl rfl⟩, ?_⟩
  refine answersWrite_of_regAt (r := .status) (by decide) (by decide) rfl ?_
  rw [writeOp, exec_wrStatus, cleared_eq_and_not]

/-- A START that succeeds clears `UNROUTED` (42 R128). -/
theorem unrouted_startCommand (hstopped : s.status.running = false)
    (hrunning : s.startCommand.status.running = true) : s.startCommand.unrouted = 0 := by
  obtain ⟨hr, -⟩ | ⟨-, i, cause, -, e⟩ | ⟨-, -, e⟩ := startCommand_cases s
  · cases hstopped.symm.trans hr
  · rw [e, State.status_startFailed] at hrunning
    cases hstopped.symm.trans hrunning
  · rw [e, State.unrouted_startOk]

/-- Settles O12: `UNROUTED` is read-only, and a START clears it where it succeeds. -/
theorem unroutedRegisterReportsTheCounter : Obligations.UnroutedRegisterReportsTheCounter := by
  intro s v
  refine ⟨answersRead_of_regAt (r := .unrouted) (by decide) (by decide) rfl rfl,
    answersWrite_of_isReadOnly (r := .unrouted) (by decide) (by decide) rfl rfl v, fun hi t hstopped h hrunning => ?_⟩
  cases (exec_cmdStart s hi).symm.trans h
  exact unrouted_startCommand hstopped hrunning

end Sys2Proof.Machine
end

section
/-! The registers of a slot (43 R148 to R151, R154): O13, O14, O15, O16 and O17. -/

namespace Sys2Proof.Machine

variable {s : State}

/-! ### `PORT_CFG` -/

/-- Masking leaves a word as it is where the bits outside the mask are zero. -/
theorem and_mask_eq_self {v m : Word} (h : v &&& ~~~m = 0) : v &&& m = v :=
  calc v &&& m = v &&& m ||| v &&& ~~~m := by rw [h]; exact BitVec.or_zero.symm
    _ = v := by rw [← BitVec.and_or_distrib_left, BitVec.or_not_self, BitVec.and_allOnes]

theorem exec_wrPortCfg (s : State) (i : Nat) (v : Word) :
    exec (.wrPortCfg i v) s =
      .next ((s.mapSlot i fun f => { f with portCfg := v &&& portCfgMask }).drive .writeOk) := rfl

theorem exec_rdPortCfg (s : State) (i : Nat) :
    exec (.rdPortCfg i) s = .next (s.drive (.readOk ((s.slot i).portCfg &&& portCfgMask))) := rfl

/-- A read after a write answers what was written, masked (43 R148). -/
theorem exec_rdPortCfg_wrPortCfg {i : Nat} {v : Word} {t : State} (hi : i < s.nPorts)
    (h : exec (.wrPortCfg i v) s = .next t) :
    exec (.rdPortCfg i) t = .next (t.drive (.readOk (v &&& portCfgMask))) := by
  cases (exec_wrPortCfg s i v).symm.trans h
  rw [exec_rdPortCfg, slot_drive, slot_mapSlot_self s _ hi, BitVec.and_assoc, BitVec.and_self]

/-- Settles O13: the decoder finds `PORT_CFG[i]` at its offset, and masking twice is masking once. -/
theorem portCfgRegisterHoldsWhatWasWritten : Obligations.PortCfgRegisterHoldsWhatWasWritten := by
  intro s i v hi h8
  have hw : 0x040 + 4 * i < windowSize := by simp only [windowSize]; omega
  have h4 : (0x040 + 4 * i) % 4 = 0 := by omega
  have hreg := regAt_portCfg hi h8
  have hwrite := exec_wrPortCfg s i v
  rw [mapSlot_eq_set _ _ hi] at hwrite
  exact ⟨answersRead_of_regAt hw h4 hreg rfl, and_mask_eq_self, answersWrite_of_regAt hw h4 hreg hwrite,
    fun _ => exec_rdPortCfg_wrPortCfg hi⟩

/-! ### The counters, and writes to what is read-only -/

/-- Settles O14: each counter is the register at its field of the slot's block. -/
theorem counterReadsReturnTheCounters : Obligations.CounterReadsReturnTheCounters := by
  intro s i hi h8
  refine ⟨?_, ?_, ?_, ?_, ?_, ?_, ?_, ?_⟩
  all_goals exact answersRead_slotReg hi h8 rfl (by decide) rfl

/-- Settles O17: three global registers and the whole of a slot's block are read-only. -/
theorem readOnlyRegisterWritesChangeNothing : Obligations.ReadOnlyRegisterWritesChangeNothing := by
  intro s i v hi h8
  refine ⟨answersWrite_of_isReadOnly (r := .params) (by decide) (by decide) rfl rfl v,
    answersWrite_of_isReadOnly (r := .proto) (by decide) (by decide) rfl rfl v,
    answersWrite_of_isReadOnly (r := .unrouted) (by decide) (by decide) rfl rfl v,
    ?_, ?_, ?_, ?_, ?_, ?_, ?_, ?_, ?_, ?_⟩
  all_goals exact answersWrite_slotReg hi h8 rfl (by decide) v

/-! ### `PSTATE` -/

/-- The disjunction of a multiple of `2 ^ k` and a number below it is their sum. -/
theorem toNat_or_of_lt {w k : Nat} {x y : BitVec w} (hx : x.toNat % 2 ^ k = 0) (hy : y.toNat < 2 ^ k) :
    (x ||| y).toNat = x.toNat + y.toNat := by
  have hmul : x.toNat = 2 ^ k * (x.toNat / 2 ^ k) := by rw [Nat.mul_div_cancel' (Nat.dvd_of_mod_eq_zero hx)]
  rw [BitVec.toNat_or, hmul, Nat.two_pow_add_eq_or_of_lt hy]

/-- A field put at bit `k` of a word that it fits in. -/
theorem toNat_zeroExtend_shiftLeft {m k : Nat} (x : BitVec m) (hfits : m + k ≤ 32) :
    (x.zeroExtend 32 <<< k).toNat = 2 ^ k * x.toNat := by
  have hlt : x.toNat * 2 ^ k < 2 ^ 32 :=
    calc x.toNat * 2 ^ k < 2 ^ m * 2 ^ k := Nat.mul_lt_mul_of_pos_right x.isLt (Nat.two_pow_pos k)
      _ = 2 ^ (m + k) := (Nat.pow_add 2 m k).symm
      _ ≤ 2 ^ 32 := Nat.pow_le_pow_right (by decide) hfits
  rw [BitVec.toNat_shiftLeft, BitVec.toNat_setWidth_of_le (by omega), Nat.shiftLeft_eq, Nat.mod_eq_of_lt hlt,
    Nat.mul_comm]

theorem toNat_pstateWord_of_unbound {f : Slot} (h : f.bound = none) : f.pstateWord.toNat = f.st.bits.toNat := by
  simp only [Slot.pstateWord, h, BitVec.ofNat_eq_ofNat, BitVec.zero_or]
  exact BitVec.toNat_setWidth_of_le (by decide)

/-- `PSTATE` of a bound slot: the state, then `BOUND`, `BROLE` and `BPORT` at bits 2, 5:4 and 31:16 (30 R76). No two
fields overlap, so each disjunction is a sum. -/
theorem toNat_pstateWord_of_bound {f : Slot} {b : Binding} (h : f.bound = some b) :
    f.pstateWord.toNat = 4 * (1 + 4 * b.role.bits.toNat + 2 ^ 14 * b.port.toNat) + f.st.bits.toNat := by
  have hst := f.st.bits.isLt
  have hrole := b.role.bits.isLt
  have port := toNat_zeroExtend_shiftLeft (k := 16) b.port (by decide)
  have role := toNat_zeroExtend_shiftLeft (k := 4) b.role.bits (by decide)
  have bound : (1 <<< 2 : Word).toNat = 4 := rfl
  have state : (f.st.bits.zeroExtend 32).toNat = f.st.bits.toNat := BitVec.toNat_setWidth_of_le (by decide)
  have portRole := toNat_or_of_lt (k := 16) (x := b.port.zeroExtend 32 <<< 16)
    (y := b.role.bits.zeroExtend 32 <<< 4) (by omega) (by omega)
  have binding := toNat_or_of_lt (k := 4) (x := b.port.zeroExtend 32 <<< 16 ||| b.role.bits.zeroExtend 32 <<< 4)
    (y := 1 <<< 2) (by omega) (by omega)
  simp only [Slot.pstateWord, h]
  rw [toNat_or_of_lt (k := 2) (by omega) (by omega)]
  omega

/-- The two low bits of `PSTATE` are the framer state (10 R22). -/
theorem pstateWord_mod_four (f : Slot) : f.pstateWord.toNat % 4 = f.st.bits.toNat := by
  have hst := f.st.bits.isLt
  cases hb : f.bound with
  | none =>
    rw [toNat_pstateWord_of_unbound hb]
    omega
  | some b =>
    rw [toNat_pstateWord_of_bound hb]
    omega

/-- Between steps a framer is in Seeking or HaveHeader (10 R37). -/
theorem Slot.Quiet.bits_le_one {p : Params} {f : Slot} (h : f.Quiet p) : f.st.bits.toNat ≤ 1 := by
  obtain ⟨hst, -⟩ | ⟨hst, -⟩ := h <;> rw [hst] <;> decide

theorem State.Inv.quiet (h : s.Inv) {i : Nat} (hi : i < s.nPorts) : (s.slot i).Quiet s.par := (h.slotsOk i hi).1

/-- Settles O15, by the fields of the word. -/
theorem pstateReportsStateAndBinding : Obligations.PstateReportsStateAndBinding := by
  intro s i hi h8
  have state {st : FState} (h : (s.slot i).st = st) : (s.slot i).pstateWord.toNat % 4 = st.bits.toNat := by
    rw [pstateWord_mod_four, h]
  have hst := (s.slot i).st.bits.isLt
  refine ⟨(s.slot i).pstateWord, answersRead_slotReg hi h8 rfl (by decide) rfl,
    state, state, state, state, fun hb => ?_, fun b hb => ⟨b.role.bits.toNat, ?_, ?_⟩, fun hinv => ?_,
    answersWrite_slotReg hi h8 rfl (by decide)⟩
  · rw [toNat_pstateWord_of_unbound hb]
    omega
  · rw [toNat_pstateWord_of_bound hb]
    omega
  · have role {r : PortRole} (h : b.role = r) : b.role.bits.toNat = r.bits.toNat := by rw [h]
    exact ⟨role, role, role, role⟩
  · rw [pstateWord_mod_four]
    exact (hinv.quiet hi).bits_le_one

/-! ### `BUF_LEVEL` -/

theorem toNat_bufLevelWord (f : Slot) : f.bufLevelWord.toNat = f.buf.length % 2 ^ 17 := by
  rw [Slot.bufLevelWord, BitVec.toNat_setWidth_of_le (by decide), BitVec.toNat_ofNat]

/-- Settles O16: between steps the buffer is bounded (41 R108), and the bound fits the field. -/
theorem bufLevelReportsBufferedBytes : Obligations.BufLevelReportsBufferedBytes := by
  intro s i hi h8
  refine ⟨(s.slot i).bufLevelWord, answersRead_slotReg hi h8 rfl (by decide) rfl, fun hinv => ?_,
    toNat_bufLevelWord _, answersWrite_slotReg hi h8 rfl (by decide)⟩
  have hlen := (hinv.quiet hi).length_le
  have hmax := s.par.maxLen.isLt
  rw [toNat_bufLevelWord]
  omega

end Sys2Proof.Machine
end

section
/-! No input stops the block (60 R160, R175): what a stimulus selects is an operation that the state selects, whatever
the number of slots, and such an operation completes. O56. -/

namespace Sys2Proof.Machine

variable {s : State}

/-- The operation of a host access is selected in the state: a misaligned access by its offset and width, a word access
by the register that stands at its offset (30 R78, 43 R152). -/
theorem selectedIn_of_decodeCsr {rel : Int} {width : Nat} {wr : Option Word} {i : Instr}
    (h : decodeCsr s.nPorts rel width wr = .op i) : SelectedIn s i := by
  rcases hostAccess_cases rel width with hout | ⟨off, rfl, hw, hm | ⟨h4, rfl⟩⟩
  · cases h.symm.trans (decodeCsr_outside hout)
  · cases h.symm.trans (decodeCsr_misaligned hw hm)
    exact isMisaligned_iff.2 ⟨hw, hm⟩
  · cases h.symm.trans (decodeCsr_word hw h4)
    cases wr with
    | none =>
      obtain ⟨-, hsel, -⟩ := encodes_readOp (s := s) (regAt_standsAt h4 hw)
      exact hsel
    | some v =>
      obtain ⟨-, hsel, -⟩ := encodes_writeOp (s := s) v (regAt_standsAt h4 hw)
      exact hsel

/-- A stimulus selects only what 30 R78 selects in the state. `Obligations.ASelectedOperationMeetsItsCondition` says so
of a block of at most 8 slots. -/
theorem selectedIn_of_select {x : Stimulus} {i : Instr} (h : s.select x = .op i) : SelectedIn s i := by
  cases x with
  | read => exact selectedIn_of_decodeCsr h
  | write => exact selectedIn_of_decodeCsr h
  | dgram port data ts =>
    cases hr : s.ingressSlot port with
    | some k =>
      simp only [State.select, hr, Selection.op.injEq] at h
      subst h
      exact selectedIn_dgramRouted_iff.2 ⟨k, hr⟩
    | none =>
      simp only [State.select, hr, Selection.op.injEq] at h
      subst h
      exact selectedIn_dgramUnrouted_iff.2 hr
  | framer k ts =>
    by_cases hk : k < s.nPorts
    · cases h.symm.trans (select_framer ts hk)
      exact selectedIn_framer_iff.2 ⟨hk, rfl⟩
    · simp only [State.select, if_neg hk, reduceCtorEq] at h
  | deliver k =>
    simp only [State.select] at h
    split_ifs at h with hk hq
    cases h
    exact ⟨Nat.not_le.1 hk, hq⟩
  | reset =>
    cases h
    trivial

/-- Settles O56: the stimulus at the head of the inbox is rejected, or it selects an operation that completes (O5);
taking it from the inbox changes nothing of what it selects. -/
theorem noInputStopsTheBlock : Obligations.NoInputStopsTheBlock := by
  intro s
  cases hin : s.inbox with
  | nil => exact ⟨_, step_of_inbox_nil hin⟩
  | cons x rest =>
    cases hsel : s.select x with
    | rejected r => exact ⟨_, step_of_select_rejected hin hsel⟩
    | op i =>
      have selected : SelectedIn { s with inbox := rest } i := selectedIn_of_select (x := x) hsel
      obtain ⟨completes, -⟩ := operationsCompleteExactlyWhereSelected { s with inbox := rest } i
      rw [step_of_select_op hin hsel]
      exact completes selected

end Sys2Proof.Machine
end

section
/-! What RESET leaves (70 R185, 10 R35): O53. -/

namespace Sys2Proof.Machine

/-- `STATUS` reads zero after reset (10 R35). -/
@[simp] theorem Status.word_reset : Status.reset.word = 0 := by decide

/-- Settles O53: every slot the block has becomes the slot after reset, whose fields the laws of `Slot.reset` give. -/
theorem resetRestoresEveryResetValue : Obligations.ResetRestoresEveryResetValue := by
  intro s
  refine ⟨_, rfl, List.length_map _, rfl, rfl, rfl, rfl, Status.word_reset, rfl, rfl, fun i hi => ?_⟩
  rw [slot_of_map (s := s) (g := fun _ => Slot.reset) rfl hi]
  simp

end Sys2Proof.Machine
end
